-- ==== Sys2Proof/Word.lean ====
section
/-!
DEFINITION. The words of the planar tile decoder: bytes, 32-bit register words, RGB24 colours (00_scope.md R10, R13), the 8x8
colour-index grid and the four-colour palette (00_scope.md R15, 10_state.md R40).
-/

namespace Sys2Proof

/-- A byte of the input memory, bits 7..0 (R10). -/
abbrev Byte := BitVec 8

/-- A 32-bit register or bus word (R24, R60). -/
abbrev Word := BitVec 32

/-- An RGB24 colour `rgb(r, g, b)`, each channel 0..255 (R13). -/
structure Colour where
  r : BitVec 8
  g : BitVec 8
  b : BitVec 8
  deriving DecidableEq, Repr, Inhabited

/-- The colour-index grid: 8 rows of 8 columns of 2-bit colour indices, row `y` first (R40, R15). -/
abbrev Grid := Vector (Vector (BitVec 2) 8) 8

/-- A resolved palette: four concrete colours, in order (R15, R40). -/
abbrev Palette := Vector Colour 4

/-- The pixels of a raster, row-major: the pixel at row `y`, column `x` of a raster of width `w` stands at
position `y * w + x` (20_memory.md R64, R65; log entry 19). -/
abbrev Pixels := List Colour

end Sys2Proof
end

