-- ==== Sys2Proof/Config.lean ====
section
/-!
DEFINITION. What the spec leaves to the built hardware (00_scope.md R8, R9), as constants without a body, and the free values:
what a step may draw where the spec says a value is unspecified. Nothing in Lean can evaluate one of them.
-/

namespace Sys2Proof

/-- Byte order of a 32-bit word on the host bus (R8, R69). -/
inductive Endian where
  | little
  | big
  deriving DecidableEq, Repr, Inhabited

/-- The parameters of R8. The meanings take them as an argument; the machine runs with `Config.params`. -/
structure Params where
  /-- The System Color Table, a total function from a 6-bit index to RGB24 (R8, R39). -/
  ct : BitVec 6 → Colour
  /-- Bytes of the IN memory. -/
  inCap : Nat
  /-- Pixels the raster block store holds. -/
  rbCap : Nat
  /-- Pixels the framebuffer store holds. -/
  fbCap : Nat
  /-- Largest raster block side, sheet width or sheet height. -/
  maxDim : Nat
  /-- Byte order of the host bus; no rule reads it (R8, R69). -/
  hostBusEndian : Endian

namespace Config

/-- The values of the System Color Table: OPEN (D7, I1). -/
opaque ct : BitVec 6 → Colour

/-- How far IN_CAP exceeds its minimum 16 (R9, D14). -/
opaque inCapOver : Nat

/-- How far RB_CAP exceeds its minimum 64 (R9, D14). -/
opaque rbCapOver : Nat

/-- How far FB_CAP exceeds its minimum 64 (R9, D14). -/
opaque fbCapOver : Nat

/-- Names MAX_DIM within its range 8 .. 2^32 - 1 (R9, D14). -/
opaque maxDimOver : Nat

/-- HOST_BUS_ENDIAN: OPEN (D18, I12). -/
opaque hostBusEndian : Endian

/-- FREE VALUE: the unspecified byte that address `a` of IN holds in the reset epoch `epoch` while HOST has not
written it (70_reset_and_hazards.md R251). No step returns it: a read of such a byte is a fault of the claim. Log entries 1 and 2. -/
opaque unwrittenIn (epoch a : Nat) : Byte

/-- FREE VALUE: the word of the `n`-th draw, for a HOST read inside a store but beyond the extent of the last result
(20_memory.md R67, I4). Log entry 4. -/
opaque freeRead (n : Nat) : Word

/-- FREE VALUE: how many moves pass between the CMD write that made the `n`-th draw and BLOCK's step; finite and
otherwise unknown (70_reset_and_hazards.md R262). Log entry 5. -/
opaque blockDelay (n : Nat) : Nat

/-- The parameters of the built hardware, within the constraints of R9 by their form (log entry 11). -/
def params : Params where
  ct := ct
  inCap := inCapOver + 16
  rbCap := rbCapOver + 64
  fbCap := fbCapOver + 64
  maxDim := maxDimOver % (2 ^ 32 - 8) + 8
  hostBusEndian := hostBusEndian

end Config

end Sys2Proof
end

