-- ==== Sys2Proof/Syntax.lean ====
section
/-!
DEFINITION. The instructions: the four commands of 30_encoding.md R91, one per unit. A command carries no operand fields; its
operands are the control registers it reads (R90, R93).
-/

namespace Sys2Proof

/-- One constructor per row of spec/opcode_table.json. -/
inductive Instr where
  /-- DECODE, the Tile Decoder (40_tile_decoder.md R122). -/
  | decode
  /-- RESOLVE, the Palette Resolver (41_palette_resolver.md R142). -/
  | resolve
  /-- RASTER, the Tile Rasterizer (42_tile_rasterizer.md R162). -/
  | raster
  /-- COMPOSE, the Sheet Compositor (43_sheet_compositor.md R182). -/
  | compose
  deriving DecidableEq, Repr

end Sys2Proof
end

