-- ==== Sys2Proof/WellFormed.lean ====
section
/-!
DEFINITION. What is well formed: a command word (30_encoding.md R90 to R92), an instruction, and a choice of parameters (00_scope.md R9).
-/

namespace Sys2Proof

/-- Bits [3:0] of a command word, the field OP (R90). -/
def commandOp (w : Word) : BitVec 4 := w.extractLsb' 0 4

/-- Bits [31:4] of a command word, the field RSV (R90). -/
def commandRsv (w : Word) : BitVec 28 := w.extractLsb' 4 28

/-- R91, R92: the opcodes 0x1..0x4 name commands, the others are illegal. -/
def opDefined (w : Word) : Bool := 1 ≤ (commandOp w).toNat && (commandOp w).toNat ≤ 4

/-- R90, R92: the reserved field must be zero. -/
def rsvZero (w : Word) : Bool := commandRsv w = 0

/-- A well-formed command word: a defined opcode and a zero reserved field (R92). -/
def wordWellFormed (w : Word) : Bool := opDefined w && rsvZero w

/-- A command has no operand fields (R90, R93), so that every instruction is well formed. -/
def Instr.wellFormed : Instr → Bool
  | .decode => true
  | .resolve => true
  | .raster => true
  | .compose => true

/-- The parameter constraints of R9. -/
def Params.wellFormed (p : Params) : Bool :=
  16 ≤ p.inCap && 64 ≤ p.rbCap && 64 ≤ p.fbCap && 8 ≤ p.maxDim && p.maxDim ≤ 2 ^ 32 - 1

end Sys2Proof
end

