-- ==== Sys2Proof/Decode.lean ====
section
/-!
DEFINITION. Decoding a command word and encoding a command (30_encoding.md R90 to R92, R98), and the bytes of a word on the host
bus (20_memory.md R69). Every word that is no command is rejected by the spec's own name for it, ILLEGAL_COMMAND.
-/

namespace Sys2Proof

/-- What a command word is: one of the four commands, or illegal (R91, R92). -/
inductive Decoded where
  | command (i : Instr)
  | illegalCommand
  deriving DecidableEq, Repr

/-- R98: the whole 32-bit word is compared with the four words of R91; every other word is illegal (R92). -/
def decode (w : Word) : Decoded :=
  if w = 0x00000001#32 then .command .decode
  else if w = 0x00000002#32 then .command .resolve
  else if w = 0x00000003#32 then .command .raster
  else if w = 0x00000004#32 then .command .compose
  else .illegalCommand

/-- The opcode of R91's table. -/
def opcode : Instr → BitVec 4
  | .decode => 0x1
  | .resolve => 0x2
  | .raster => 0x3
  | .compose => 0x4

/-- R90: OP in bits [3:0] under a zero RSV field. -/
def encode (i : Instr) : Word := (opcode i).setWidth 32

/-- What the decoder reads from an instruction whose bits are `w`, numbered as spec/opcode_table.json numbers them: a command
is one 32-bit word, and bits the table does not give are zero (log entry 21). -/
def decodeTableWord (nbits w : Nat) : Option Instr :=
  if nbits ≤ 32 ∧ w < 2 ^ 32 then
    match decode (BitVec.ofNat 32 w) with
    | .command i => some i
    | .illegalCommand => none
  else none

/-- The four bytes of a word in the order of the host bus, lowest first (R69). -/
def busBytes (e : Endian) (w : Word) : List Byte :=
  let littleFirst := [w.extractLsb' 0 8, w.extractLsb' 8 8, w.extractLsb' 16 8, w.extractLsb' 24 8]
  match e with
  | .little => littleFirst
  | .big => littleFirst.reverse

/-- Four bytes as one word, `b0` the least significant. -/
def wordOfBytes (b0 b1 b2 b3 : Byte) : Word :=
  (b3.setWidth 32 <<< 24) ||| (b2.setWidth 32 <<< 16) ||| (b1.setWidth 32 <<< 8) ||| b0.setWidth 32

/-- The word of four bytes on the host bus. Total on any bytes: a list of another length is no word, since REG is reached by
whole 32-bit words alone (R61, R70). -/
def busWord (e : Endian) (bs : List Byte) : Option Word :=
  match e, bs with
  | .little, [b0, b1, b2, b3] => some (wordOfBytes b0 b1 b2 b3)
  | .big, [b3, b2, b1, b0] => some (wordOfBytes b0 b1 b2 b3)
  | _, _ => none

/-- Decoding from the bytes of the bus: bytes that are not one whole word name no command. -/
def decodeBytes (e : Endian) (bs : List Byte) : Decoded :=
  match busWord e bs with
  | some w => decode w
  | none => .illegalCommand

end Sys2Proof
end

