-- ==== Sys2Proof/Machine/HostOp.lean ====
section
/-!
DEFINITION. The moves of the HOST agent: the host operations of 30_encoding.md R99, the `wait` of R100, the ignored writes of
20_memory.md R67 and the reset of 70_reset_and_hazards.md R250; the registers of 10_state.md R24; and R100's pseudo-operations.
-/

namespace Sys2Proof.Machine

/-- A host operation. A register is named by its byte offset, so that every triple (space, index, data) of R99 is a term. -/
inductive HostOp where
  /-- `wr NAME, v`: write `v` to the register at a byte offset of REG. -/
  | wr (offset : Nat) (v : Word)
  /-- `rd NAME`: read the register at a byte offset of REG. -/
  | rd (offset : Nat)
  /-- `wb a, v`: write byte `v` to `IN[a]`. -/
  | wb (a : Nat) (v : Byte)
  /-- `rb a`: read `IN[a]`. -/
  | rb (a : Nat)
  /-- `rdct k`: read `CT[k]`. -/
  | rdct (k : Nat)
  /-- `rdcig i`: read cell `i` of CIG. -/
  | rdcig (i : Nat)
  /-- `rdrb i`: read pixel `i` of RB. -/
  | rdrb (i : Nat)
  /-- `rdfb i`: read pixel `i` of FB. -/
  | rdfb (i : Nat)
  /-- A write to CT, which is ignored (R67). -/
  | wrct (k : Nat) (v : Word)
  /-- A write to CIG, which is ignored (R67). -/
  | wrcig (i : Nat) (v : Word)
  /-- A write to RB, which is ignored (R67). -/
  | wrrb (i : Nat) (v : Word)
  /-- A write to FB, which is ignored (R67). -/
  | wrfb (i : Nat) (v : Word)
  /-- `wait`: read STATUS and repeat while BUSY is 1 (R100). -/
  | wait
  /-- Assert reset (R250). -/
  | reset
  deriving DecidableEq, Repr

/-- The registers of R24's map. -/
inductive Reg where
  | cmd
  | status
  | inLen
  | tileIndex
  | tilesPerRow
  | scale
  | psel (n : Fin 4)
  | rpal (n : Fin 4)
  | rbDim
  | fbWidth
  | fbHeight
  | tileCount
  | errReq
  | errAvail
  deriving DecidableEq, Repr

/-- The byte offset of a register (R24). -/
def Reg.offset : Reg → Nat
  | .cmd => 0x00
  | .status => 0x04
  | .inLen => 0x08
  | .tileIndex => 0x0C
  | .tilesPerRow => 0x10
  | .scale => 0x14
  | .psel n => 0x18 + 4 * n.val
  | .rpal n => 0x28 + 4 * n.val
  | .rbDim => 0x38
  | .fbWidth => 0x3C
  | .fbHeight => 0x40
  | .tileCount => 0x44
  | .errReq => 0x48
  | .errAvail => 0x4C

/-- The registers in the order of R24's map. -/
def Reg.all : List Reg :=
  [.cmd, .status, .inLen, .tileIndex, .tilesPerRow, .scale, .psel 0, .psel 1, .psel 2, .psel 3, .rpal 0, .rpal 1, .rpal 2, .rpal 3,
    .rbDim, .fbWidth, .fbHeight, .tileCount, .errReq, .errAvail]

/-- The register at a byte offset; none at the reserved offsets 0x50..0xFC and outside REG (R24, R37, R60). -/
def Reg.atOffset (offset : Nat) : Option Reg := Reg.all.find? fun r => r.offset == offset

/-- The control registers of R230: HOST may write them, while BUSY = 0. -/
def Reg.isControl : Reg → Bool
  | .inLen | .tileIndex | .tilesPerRow | .scale | .psel _ => true
  | .cmd | .status | .rpal _ | .rbDim | .fbWidth | .fbHeight | .tileCount | .errReq | .errAvail => false

/-- The output registers of R22 and R230: BLOCK writes them, and HOST may read them while BUSY = 0. ERR_REQ and ERR_AVAIL are counted
among them (DEDUCED, log entry 23): R22 and R24 have BLOCK write them, while the lists of R214 and R216 leave them out. -/
def Reg.isOutput : Reg → Bool
  | .rpal _ | .rbDim | .fbWidth | .fbHeight | .tileCount | .errReq | .errAvail => true
  | .cmd | .status | .inLen | .tileIndex | .tilesPerRow | .scale | .psel _ => false

/-- The register's name in a host program (R24, R99). -/
def Reg.name : Reg → String
  | .cmd => "CMD"
  | .status => "STATUS"
  | .inLen => "IN_LEN"
  | .tileIndex => "TILE_INDEX"
  | .tilesPerRow => "TILES_PER_ROW"
  | .scale => "SCALE"
  | .psel n => "PSEL" ++ toString n.val
  | .rpal n => "RPAL" ++ toString n.val
  | .rbDim => "RB_DIM"
  | .fbWidth => "FB_WIDTH"
  | .fbHeight => "FB_HEIGHT"
  | .tileCount => "TILE_COUNT"
  | .errReq => "ERR_REQ"
  | .errAvail => "ERR_AVAIL"

/-- The six address spaces (20_memory.md R60). -/
inductive Space where
  | reg
  | input
  | ct
  | cig
  | rb
  | fb
  deriving DecidableEq, Repr

/-- The third part of a host operation's triple (R99). -/
inductive AccessData where
  | read
  | word (v : Word)
  | byte (v : Byte)
  deriving DecidableEq, Repr

/-- The triple (space, index, data) of a host operation (R99). `wait` is a loop of reads (R100) and reset is no access. -/
def HostOp.encoding : HostOp → Option (Space × Nat × AccessData)
  | .wr offset v => some (.reg, offset, .word v)
  | .rd offset => some (.reg, offset, .read)
  | .wb a v => some (.input, a, .byte v)
  | .rb a => some (.input, a, .read)
  | .rdct k => some (.ct, k, .read)
  | .rdcig i => some (.cig, i, .read)
  | .rdrb i => some (.rb, i, .read)
  | .rdfb i => some (.fb, i, .read)
  | .wrct k v => some (.ct, k, .word v)
  | .wrcig i v => some (.cig, i, .word v)
  | .wrrb i v => some (.rb, i, .word v)
  | .wrfb i v => some (.fb, i, .word v)
  | .wait => none
  | .reset => none

/-- R100's `decode`, `resolve`, `raster` and `compose`: write the command word to CMD, then wait. -/
def HostOp.command (i : Instr) : List HostOp := [.wr Reg.cmd.offset (encode i), .wait]

/-- R100's `wbytes a, v0, v1, ...`. -/
def HostOp.wbytes (a : Nat) : List Byte → List HostOp
  | [] => []
  | v :: vs => .wb a v :: HostOp.wbytes (a + 1) vs

/-- R100's `wtile i, b0, ..., b15`. -/
def HostOp.wtile (i : Nat) (bs : List Byte) : List HostOp := HostOp.wbytes (16 * i) bs

/-- R100's `palette p0, p1, p2, p3`. -/
def HostOp.palette (p0 p1 p2 p3 : Word) : List HostOp :=
  [.wr (Reg.psel 0).offset p0, .wr (Reg.psel 1).offset p1, .wr (Reg.psel 2).offset p2, .wr (Reg.psel 3).offset p3]

end Sys2Proof.Machine
end

