-- ==== Sys2Proof/Machine/State.lean ====
section
/-!
DEFINITION. The state of the machine (10_state.md), plain data: the block's registers and memories, the HOST agent's program and
what it has read, and three counters of the model's own; the reasons a step can stop; and the state after reset (R41, R250).
-/

namespace Sys2Proof.Machine

/-- The fault codes of R211. Codes 7..15 are reserved and never raised. -/
inductive ErrCode where
  | none
  | illegalCommand
  | range
  | badScale
  | badTpr
  | notReady
  | capacity
  deriving DecidableEq, Repr

/-- The fields of STATUS (R26); its reserved bits [31:12] read 0 (R37). -/
structure Status where
  busy : Bool
  done : Bool
  faulted : Bool
  warn : Bool
  cigValid : Bool
  rpalValid : Bool
  rbValid : Bool
  fbValid : Bool
  errCode : ErrCode
  deriving DecidableEq, Repr

/-- Why the machine stops with a fault. Both are the spec's "fault of the claim, not a value" (R68, 92_eei_decisions.md D21,
93_implementation_defined.md I2, I3). A command's own faults are completions, next states (R210, R214). -/
inductive Fault where
  /-- Raised by a HOST read of CIG, RPAL0..3, RB or FB while its valid bit is 0 (R68, D21, I3). Safe: the hardware returns an
  unspecified value and goes on. -/
  | invalidOutputRead
  /-- Raised by a DECODE or COMPOSE that passes its checks and reads an IN byte HOST has not written since reset, and by a HOST
  read of one (R68, D21, I2). Safe: the hardware reads an unspecified value and goes on. -/
  | unwrittenInputRead
  deriving DecidableEq, Repr

/-- Why a step is refused: a HOST move the spec gives HOST no right to. -/
inductive Refusal where
  /-- An instruction without a meaning; raised by no arm of exec. Safe. -/
  | notModelled (mnemonic : String)
  /-- Raised by a HOST write of CMD while BUSY = 1, whose effect is unspecified (R232, I5). Safe: the model stops. -/
  | cmdWriteWhileBusy
  /-- Raised by a HOST write of IN or of a control register while BUSY = 1 (R233, I6). Safe: the model stops. -/
  | inputWriteWhileBusy
  /-- Raised by a HOST read of an output register or array while BUSY = 1 (R234, I7). Safe: the model stops. -/
  | outputReadWhileBusy
  /-- Raised by a HOST read of a control register, IN or CT while BUSY = 1, which R230 does not give HOST. Safe: the model
  stops. -/
  | inputReadWhileBusy
  /-- Raised by a HOST access to REG at an offset that is no multiple of 4 (R61, R70, R233, I6). Safe: the model stops. -/
  | misalignedAccess
  deriving DecidableEq, Repr

/-- The IN memory: the bytes HOST has written since reset, by address (20_memory.md R66). -/
abbrev Memory := List Host.Cell

/-- The canonical form: addresses strictly rising. An unlisted address reads as no value, so that no entry can equal it. -/
def Memory.wf : Memory → Bool
  | [] => true
  | c :: m => m.all (fun d => decide (c.1 < d.1)) && Memory.wf m

/-- The whole state. -/
structure State where
  /-- The command word awaiting BLOCK's step (R21, R43). -/
  pending : Word
  /-- STATUS (R26). -/
  status : Status
  /-- IN_LEN, u32 (R27). -/
  inLen : Word
  /-- TILE_INDEX, u32 (R28). -/
  tileIndex : Word
  /-- TILES_PER_ROW, s32 (R29). -/
  tilesPerRow : Word
  /-- SCALE, s32 (R30). -/
  scale : Word
  /-- PSEL0..3, raw (R31). -/
  psel : Vector Word 4
  /-- RPAL0..3 (R32). -/
  rpal : Palette
  /-- RB_DIM (R33). -/
  rbDim : Word
  /-- FB_WIDTH (R34). -/
  fbWidth : Word
  /-- FB_HEIGHT (R34). -/
  fbHeight : Word
  /-- TILE_COUNT (R35). -/
  tileCount : Word
  /-- ERR_REQ (R36). -/
  errReq : Word
  /-- ERR_AVAIL (R36). -/
  errAvail : Word
  /-- IN (R38). -/
  inMem : Memory
  /-- CIG (R40, R63). -/
  cig : Grid
  /-- RB, row-major, the pixels of the last RASTER (R40, R64). -/
  rb : Pixels
  /-- FB, row-major, the pixels of the last COMPOSE (R40, R65). -/
  fb : Pixels
  /-- HOST's remaining program (R99, R238). -/
  hostOps : List HostOp
  /-- The words HOST's reads returned, oldest first (R99, R238). -/
  hostReads : List Word
  /-- The model's own: how many moves pass before BLOCK takes its step (R262; log entry 5). -/
  delay : Nat
  /-- The model's own: the counter the free values are applied to (log entries 4 and 5). -/
  draws : Nat
  /-- The model's own: how many resets HOST has asserted; names the epoch of IN's unspecified bytes (log entry 2). -/
  resets : Nat
  deriving DecidableEq, Repr

/-- STATUS after reset: 0x00000000 (R41). -/
def Status.reset : Status where
  busy := false
  done := false
  faulted := false
  warn := false
  cigValid := false
  rpalValid := false
  rbValid := false
  fbValid := false
  errCode := .none

/-- The state right after reset (R41, R250), with an idle HOST. PENDING, CIG, RB and FB, which the spec leaves unspecified,
hold the values of log entries 8 and 9 (DESIGN CHOICE); HOST's and the model's own fields those of 6 and 10. -/
def State.reset : State where
  pending := 0
  status := Status.reset
  inLen := 0
  tileIndex := 0
  tilesPerRow := 16
  scale := 1
  psel := #v[0x0F, 0x20, 0x28, 0x30]
  rpal := #v[⟨0, 0, 0⟩, ⟨0, 0, 0⟩, ⟨0, 0, 0⟩, ⟨0, 0, 0⟩]
  rbDim := 0
  fbWidth := 0
  fbHeight := 0
  tileCount := 0
  errReq := 0
  errAvail := 0
  inMem := []
  cig := Vector.replicate 8 (Vector.replicate 8 0)
  rb := []
  fb := []
  hostOps := []
  hostReads := []
  delay := 0
  draws := 0
  resets := 0

end Sys2Proof.Machine
end

