-- ==== Sys2Proof/Machine/Operands.lean ====
section
/-!
DEFINITION. The operand forms: u32, s32, sat32 and ceil of 00_scope.md R11, colour words and BLACK of R13, palette indices of
30_encoding.md R96, and the element functions of the colour-index grid and the palette.
-/

namespace Sys2Proof.Machine

/-- `u32(v)`: the register value read as unsigned (R11). -/
abbrev u32 (v : Word) : Nat := v.toNat

/-- `s32(v)`: the same bits read as two's complement (R11). -/
abbrev s32 (v : Word) : Int := v.toInt

/-- `sat32(n)` = `min(n, 2^32 - 1)`, as a 32-bit word (R11; log entry 20). -/
def sat32 (n : Nat) : Word := BitVec.ofNat 32 (min n (2 ^ 32 - 1))

/-- `ceil(a / b)` = `(a + b - 1) div b` for `b ≥ 1` (R11). -/
def ceilDiv (a b : Nat) : Nat := (a + b - 1) / b

/-- A colour as a 32-bit word: `r << 16 | g << 8 | b`, bits [31:24] zero (R13, R97). -/
def colourWord (c : Colour) : Word := (c.r.setWidth 32 <<< 16) ||| (c.g.setWidth 32 <<< 8) ||| c.b.setWidth 32

/-- `BLACK` = `rgb(0, 0, 0)` (R13). -/
def black : Colour := ⟨0, 0, 0⟩

/-- The used field PSELn[5:0] of a raw palette index (R96, R141). -/
def tableIndex (p : Word) : BitVec 6 := p.extractLsb' 0 6

/-- `lookup(p)` = `CT[p & 63]` (41_palette_resolver.md R140). -/
def lookup (p : Params) (raw : Word) : Colour := p.ct (tableIndex raw)

/-- `resolve(P0, P1, P2, P3)`: the four lookups in input order (R140). -/
def resolve (p : Params) (psel : Vector Word 4) : Palette :=
  #v[lookup p psel[0], lookup p psel[1], lookup p psel[2], lookup p psel[3]]

/-- `mux(c, RP)` = `RPc` (42_tile_rasterizer.md R160). -/
def mux (c : BitVec 2) (rp : Palette) : Colour := rp[c.toNat]'c.isLt

/-- `G[y][x]`. Rows and columns are 0..7 wherever the spec names a cell. -/
def cell (g : Grid) (y x : Nat) : BitVec 2 :=
  (g[y % 8]'(Nat.mod_lt y (by decide)))[x % 8]'(Nat.mod_lt x (by decide))

/-- The grid whose cell at row `y`, column `x` is `f y x`. -/
def gridOf (f : Nat → Nat → BitVec 2) : Grid := Vector.ofFn fun y => Vector.ofFn fun x => f y.val x.val

end Sys2Proof.Machine
end

