-- ==== Sys2Proof/Machine/Flags.lean ====
section
/-!
DEFINITION. STATUS: the word a read of it returns (10_state.md R26, R37), and how a CMD write (60_exceptions.md R231), a fault
completion (R214) and a success completion (R215) change its fields.
-/

namespace Sys2Proof.Machine

/-- The number of a fault code (R211). -/
def ErrCode.code : ErrCode → BitVec 4
  | .none => 0
  | .illegalCommand => 1
  | .range => 2
  | .badScale => 3
  | .badTpr => 4
  | .notReady => 5
  | .capacity => 6

/-- A one-bit field at bit `k` of a 32-bit word. -/
def flagAt (k : Nat) (b : Bool) : Word := (BitVec.ofBool b).setWidth 32 <<< k

/-- STATUS as a 32-bit word, the fields at the bits of R26, bits [31:12] zero. -/
def Status.word (st : Status) : Word :=
  flagAt 0 st.busy ||| flagAt 1 st.done ||| flagAt 2 st.faulted ||| flagAt 3 st.warn ||| flagAt 4 st.cigValid |||
    flagAt 5 st.rpalValid ||| flagAt 6 st.rbValid ||| flagAt 7 st.fbValid ||| (st.errCode.code.setWidth 32 <<< 8)

/-- A CMD write sets BUSY and clears DONE, and no other field (R231). -/
def Status.started (st : Status) : Status := { st with busy := true, done := false }

/-- The fault completion's flags (R214). -/
def Status.afterFault (code : ErrCode) (st : Status) : Status :=
  { st with errCode := code, faulted := true, done := false, warn := false, busy := false }

/-- The success completion's flags (R215). -/
def Status.afterSuccess (warn : Bool) (st : Status) : Status :=
  { st with errCode := .none, done := true, warn := warn, busy := false }

/-- COMPOSE's WARN: the buffer holds a partial record (R180, R215). -/
def truncationWarning (inLen : Nat) : Bool := inLen % 16 ≠ 0

end Sys2Proof.Machine
end

