-- ==== Sys2Proof/Machine/Ops.lean ====
section
/-!
DEFINITION. The named operations over memory and registers: reading and writing IN (20_memory.md R66), pixel stores (R64, R65), the
completions (60_exceptions.md R214, R215), starting a command (R231) and reset (70_reset_and_hazards.md R250).
-/

namespace Sys2Proof.Machine

/-- The byte HOST last wrote to an address since reset, if it wrote one. -/
def Memory.read : Memory → Nat → Option Byte
  | [], _ => none
  | c :: m, a => if c.1 = a then some c.2 else Memory.read m a

/-- Writing one byte keeps the addresses strictly rising. -/
def Memory.write : Memory → Nat → Byte → Memory
  | [], a, v => [(a, v)]
  | c :: m, a, v =>
    if a < c.1 then (a, v) :: c :: m
    else if a = c.1 then (a, v) :: m
    else c :: Memory.write m a v

/-- `MemRead(a, 1)`, BLOCK's one access to IN (R66): the byte HOST wrote, and for a byte not written since reset the unspecified
value it holds (70_reset_and_hazards.md R251), a free value of Config (log entry 2). A command that reads such a byte is a fault of the
claim, `State.afterReading`, so that no next state rests on the free value. -/
def State.inByte (s : State) (a : Nat) : Byte := (s.inMem.read a).getD (Config.unwrittenIn s.resets a)

/-- HOST has written each of the `n` bytes of IN from `a` on since reset. -/
def State.written (s : State) (a n : Nat) : Bool := (List.range n).all fun k => (s.inMem.read (a + k)).isSome

/-- BLOCK's step in `s` with a command whose pseudocode, reading the `n` bytes of IN from `a` on, leaves `t`. Reading a byte HOST has not
written since reset is a fault of the claim, not a value (20_memory.md R68, 92_eei_decisions.md D21, 93_implementation_defined.md I2; log
entry 1). A command that takes the fault completion has read no byte: every check reads only registers and parameters (60_exceptions.md
R213). -/
def State.afterReading (s : State) (a n : Nat) (t : State) : Host.Outcome State Fault Refusal :=
  if s.written a n then .next t
  else if t.status.errCode = .none then .fault .unwrittenInputRead
  else .next t

/-- `for v in 0 .. n - 1`: the body for v = 0, then 1, and so on (00_scope.md R14). -/
def forRange {α : Type} (n : Nat) (body : Nat → α → α) (a : α) : α :=
  match n with
  | 0 => a
  | k + 1 => body k (forRange k body a)

/-- A raster of `h` rows and `w` columns whose pixel at row `y`, column `x` is `f y x`, row-major (R64, R65). -/
def pixelsOf (h w : Nat) (f : Nat → Nat → Colour) : Pixels :=
  (List.range (h * w)).map fun i => f (i / w) (i % w)

/-- `FB[Y][X] <- c` in a raster of width `w` (R65). -/
def setPixel (w : Nat) (fb : Pixels) (y x : Nat) (c : Colour) : Pixels := fb.set (y * w + x) c

/-- TAKING A FAULT: `raise FAULT(code, req, avail)`, the fault completion of R214. Nothing else changes. There is no return from
it: BUSY is 0 and the next CMD write starts a command as after a success (R219, R220). -/
def State.raiseFault (code : ErrCode) (req avail : Word) (s : State) : State :=
  { s with status := s.status.afterFault code, errReq := req, errAvail := avail }

/-- `complete_success(warn)`, the success completion of R215. -/
def State.completeSuccess (warn : Bool) (s : State) : State :=
  { s with status := s.status.afterSuccess warn, errReq := 0, errAvail := 0 }

/-- A HOST write of CMD while BUSY = 0 (R231). How many moves pass before BLOCK's step is drawn here (R262; log entry 5). -/
def State.startCommand (w : Word) (s : State) : State :=
  { s with pending := w, status := s.status.started, delay := Config.blockDelay s.draws, draws := s.draws + 1 }

/-- Reset (R250, R251): every register at its value of R41, a pending command abandoned, the bytes of IN unspecified again. HOST
keeps its program and what it has read. -/
def State.assertReset (s : State) : State :=
  { State.reset with
    hostOps := s.hostOps
    hostReads := s.hostReads
    draws := s.draws
    resets := s.resets + 1 }

/-- `CIG <- G` and CIG_VALID (40_tile_decoder.md R122). -/
def State.setCig (g : Grid) (s : State) : State :=
  { s with cig := g, status := { s.status with cigValid := true } }

/-- `RPAL0..3 <- RP` and RPAL_VALID (41_palette_resolver.md R142). -/
def State.setRpal (rp : Palette) (s : State) : State :=
  { s with rpal := rp, status := { s.status with rpalValid := true } }

/-- `RB <- B`, `RB_DIM <- D` and RB_VALID (42_tile_rasterizer.md R162). -/
def State.setRb (d : Nat) (b : Pixels) (s : State) : State :=
  { s with rb := b, rbDim := BitVec.ofNat 32 d, status := { s.status with rbValid := true } }

/-- `FB`, `FB_WIDTH <- W`, `FB_HEIGHT <- H`, `TILE_COUNT <- N` and FB_VALID (43_sheet_compositor.md R182). -/
def State.setFb (w h n : Nat) (fb : Pixels) (s : State) : State :=
  { s with
    fb := fb
    fbWidth := BitVec.ofNat 32 w
    fbHeight := BitVec.ofNat 32 h
    tileCount := BitVec.ofNat 32 n
    status := { s.status with fbValid := true } }

end Sys2Proof.Machine
end

