-- ==== Sys2Proof/Machine/PaletteResolver.lean ====
section
/-!
DEFINITION. The Palette Resolver: the command RESOLVE (41_palette_resolver.md).
-/

namespace Sys2Proof.Machine

/-- RESOLVE (R142). It has no faults. -/
def resolveCommand (p : Params) (s : State) : State := (s.setRpal (resolve p s.psel)).completeSuccess false

/-- The meaning of RESOLVE: the command on the built hardware. -/
def execResolve (s : State) : Host.Outcome State Fault Refusal := .next (resolveCommand Config.params s)

end Sys2Proof.Machine
end

