-- ==== Sys2Proof/Machine/TileDecoder.lean ====
section
/-!
DEFINITION. The Tile Decoder: the bit-plane extractor, the colour-index grid assembler and the command DECODE (40_tile_decoder.md).
-/

namespace Sys2Proof.Machine

/-- The low-plane row byte `lo(i, y)` (R120). -/
def loByte (s : State) (i y : Nat) : Byte := s.inByte (16 * i + y)

/-- The high-plane row byte `hi(i, y)` (R120). -/
def hiByte (s : State) (i y : Nat) : Byte := s.inByte (16 * i + 8 + y)

/-- `(hi[7 - x] << 1) | lo[7 - x]`, the 2-bit colour index of column `x` of a row (30_encoding.md R95, R121). -/
def colourIndex (hi lo : Byte) (x : Nat) : BitVec 2 :=
  ((BitVec.ofBool (hi.getLsbD (7 - x))).setWidth 2 <<< 1) ||| (BitVec.ofBool (lo.getLsbD (7 - x))).setWidth 2

/-- `decodeTile(i)`: the colour-index grid of tile `i` (R121). -/
def decodeTile (s : State) (i : Nat) : Grid := gridOf fun y x => colourIndex (hiByte s i y) (loByte s i y) x

/-- DECODE's pseudocode (R122). -/
def decodeCommand (p : Params) (s : State) : State :=
  let t := u32 s.tileIndex
  let l := u32 s.inLen
  if l > p.inCap then s.raiseFault .capacity (sat32 l) (sat32 p.inCap)
  else if l < (t + 1) * 16 then s.raiseFault .range (sat32 ((t + 1) * 16)) (sat32 l)
  else (s.setCig (decodeTile s t)).completeSuccess false

/-- The meaning of DECODE: the command on the built hardware, which reads the 16 bytes of its tile (20_memory.md R71). -/
def execDecode (s : State) : Host.Outcome State Fault Refusal :=
  s.afterReading (16 * u32 s.tileIndex) 16 (decodeCommand Config.params s)

end Sys2Proof.Machine
end

