-- ==== Sys2Proof/Machine/TileRasterizer.lean ====
section
/-!
DEFINITION. The Tile Rasterizer: palette multiplexing with integer scale replication, and the command RASTER (42_tile_rasterizer.md).
-/

namespace Sys2Proof.Machine

/-- `rasterize(G, RP, S)[py][px]` (R161). -/
def rasterize (g : Grid) (rp : Palette) (scale py px : Nat) : Colour := mux (cell g (py / scale) (px / scale)) rp

/-- RASTER (R162). -/
def rasterCommand (p : Params) (s : State) : State :=
  let scale := s32 s.scale
  let d := 8 * scale.toNat
  if s.status.cigValid = false ∨ s.status.rpalValid = false then s.raiseFault .notReady 0 0
  else if scale < 1 then s.raiseFault .badScale 0 0
  else if d > p.maxDim then s.raiseFault .capacity (sat32 d) (sat32 p.maxDim)
  else if d * d > p.rbCap then s.raiseFault .capacity (sat32 (d * d)) (sat32 p.rbCap)
  else (s.setRb d (pixelsOf d d (rasterize s.cig s.rpal scale.toNat))).completeSuccess false

/-- The meaning of RASTER: the command on the built hardware. -/
def execRaster (s : State) : Host.Outcome State Fault Refusal := .next (rasterCommand Config.params s)

end Sys2Proof.Machine
end

