-- ==== Sys2Proof/Machine/SheetCompositor.lean ====
section
/-!
DEFINITION. The Sheet Compositor: geometry, row-major placement, and the command COMPOSE, which runs the whole pipeline in scratch
storage (43_sheet_compositor.md).
-/

namespace Sys2Proof.Machine

/-- Pasting one raster block of side `d` with its top-left pixel at row `r * d`, column `c * d` of a sheet of width `w`, pixel by
pixel (R182, R185). -/
def pasteBlock (w d r c : Nat) (block : Nat → Nat → Colour) (fb : Pixels) : Pixels :=
  forRange d (fun py => forRange d (fun px fb => setPixel w fb (r * d + py) (c * d + px) (block py px))) fb

/-- Tile `i` decoded, coloured, scaled and pasted at grid row `i div TPR`, column `i mod TPR` (R182, R184). -/
def pasteTile (s : State) (rp : Palette) (tpr scale i : Nat) (fb : Pixels) : Pixels :=
  pasteBlock (tpr * (8 * scale)) (8 * scale) (i / tpr) (i % tpr) (rasterize (decodeTile s i) rp scale) fb

/-- The tiles of a list pasted one after another. COMPOSE pastes `0 .. N - 1` in buffer order (R184). -/
def pasteTiles (s : State) (rp : Palette) (tpr scale : Nat) (tiles : List Nat) (fb : Pixels) : Pixels :=
  tiles.foldl (fun fb i => pasteTile s rp tpr scale i fb) fb

/-- The background of a sheet: every pixel BLACK (R186). -/
def blackSheet (h w : Nat) : Pixels := List.replicate (h * w) black

/-- COMPOSE's pseudocode (R182). -/
def composeCommand (p : Params) (s : State) : State :=
  let l := u32 s.inLen
  let tpr := s32 s.tilesPerRow
  let scale := s32 s.scale
  let n := l / 16
  let d := 8 * scale.toNat
  let w := tpr.toNat * d
  let h := ceilDiv n tpr.toNat * d
  if l > p.inCap then s.raiseFault .capacity (sat32 l) (sat32 p.inCap)
  else if tpr < 1 then s.raiseFault .badTpr 0 0
  else if scale < 1 then s.raiseFault .badScale 0 0
  else if w > p.maxDim then s.raiseFault .capacity (sat32 w) (sat32 p.maxDim)
  else if h > p.maxDim then s.raiseFault .capacity (sat32 h) (sat32 p.maxDim)
  else if w * h > p.fbCap then s.raiseFault .capacity (sat32 (w * h)) (sat32 p.fbCap)
  else
    let sheet := pasteTiles s (resolve p s.psel) tpr.toNat scale.toNat (List.range n) (blackSheet h w)
    (s.setFb w h n sheet).completeSuccess (truncationWarning l)

/-- The meaning of COMPOSE: the command on the built hardware, which reads the `16 · N` bytes of the whole tiles (20_memory.md R71). -/
def execCompose (s : State) : Host.Outcome State Fault Refusal :=
  s.afterReading 0 (16 * (u32 s.inLen / 16)) (composeCommand Config.params s)

end Sys2Proof.Machine
end

