-- ==== Sys2Proof/Machine/Dispatch.lean ====
section
/-!
DEFINITION. exec: one arm per command, each one direct call of its meaning.
-/

namespace Sys2Proof.Machine

def exec (i : Instr) (s : State) : Host.Outcome State Fault Refusal :=
  match i with
  | .decode => Sys2Proof.Machine.execDecode s
  | .resolve => Sys2Proof.Machine.execResolve s
  | .raster => Sys2Proof.Machine.execRaster s
  | .compose => Sys2Proof.Machine.execCompose s

end Sys2Proof.Machine
end

