-- ==== Sys2Proof/Machine/BlockStep.lean ====
section
/-!
DEFINITION. BLOCK's step (10_state.md R21): the word in PENDING is decoded and its command executed; an illegal word ends in the
fault completion (30_encoding.md R92).
-/

namespace Sys2Proof.Machine

/-- BLOCK's step, from a state with BUSY = 1 (R21). -/
def blockStep (s : State) : Host.Outcome State Fault Refusal :=
  match decode s.pending with
  | .command i => exec i s
  | .illegalCommand => .next (s.raiseFault .illegalCommand 0 0)

/-- The CMD write of R231 whose BLOCK step is the very next one (log entry 16). -/
def placeCommand (w : Word) (s : State) : State :=
  { s with pending := w, status := s.status.started, delay := 0 }

end Sys2Proof.Machine
end

