-- ==== Sys2Proof/Machine/HostStep.lean ====
section
/-!
DEFINITION. HOST's moves: what each host operation reads and writes (20_memory.md R60 to R68, 10_state.md R24 to R37), when the spec
gives HOST the move (60_exceptions.md R230 to R234), and the step HOST takes with the first operation of its program.
-/

namespace Sys2Proof.Machine

/-- What a HOST read returns. -/
inductive ReadResult where
  /-- The word the spec gives. -/
  | value (w : Word)
  /-- An unspecified value, a free draw (R67, I4). -/
  | unspecified
  /-- A read the spec makes a fault of the claim (R68, I2, I3). -/
  | invalid (f : Fault)
  deriving DecidableEq, Repr

/-- A read of a register (R24 to R37): the reserved offsets and CMD read 0, RPALn is unspecified while RPAL_VALID is 0 (R68); the
other output registers read their value also while their result is invalid (DEDUCED, log entry 14). -/
def State.readReg (offset : Nat) (s : State) : ReadResult :=
  match Reg.atOffset offset with
  | none => .value 0
  | some .cmd => .value 0
  | some .status => .value s.status.word
  | some .inLen => .value s.inLen
  | some .tileIndex => .value s.tileIndex
  | some .tilesPerRow => .value s.tilesPerRow
  | some .scale => .value s.scale
  | some (.psel n) => .value s.psel[n]
  | some (.rpal n) => if s.status.rpalValid then .value (colourWord s.rpal[n]) else .invalid .invalidOutputRead
  | some .rbDim => .value s.rbDim
  | some .fbWidth => .value s.fbWidth
  | some .fbHeight => .value s.fbHeight
  | some .tileCount => .value s.tileCount
  | some .errReq => .value s.errReq
  | some .errAvail => .value s.errAvail

/-- A write of a register (R24 to R37): CMD starts a command (R231), the control registers store the word, and every other
write is ignored. -/
def State.writeReg (offset : Nat) (v : Word) (s : State) : State :=
  match Reg.atOffset offset with
  | some .cmd => s.startCommand v
  | some .inLen => { s with inLen := v }
  | some .tileIndex => { s with tileIndex := v }
  | some .tilesPerRow => { s with tilesPerRow := v }
  | some .scale => { s with scale := v }
  | some (.psel n) => { s with psel := s.psel.set n v }
  | none => s
  | some .status => s
  | some (.rpal _) => s
  | some .rbDim => s
  | some .fbWidth => s
  | some .fbHeight => s
  | some .tileCount => s
  | some .errReq => s
  | some .errAvail => s

/-- A read of `IN[a]` (R66, R67, R68). Here and below the range is looked at first (DEDUCED, log entry 15). -/
def State.readIn (p : Params) (a : Nat) (s : State) : ReadResult :=
  if a < p.inCap then
    match s.inMem.read a with
    | some v => .value (v.setWidth 32)
    | none => .invalid .unwrittenInputRead
  else .value 0

/-- A write of `IN[a]` (R66, R67). -/
def State.writeIn (p : Params) (a : Nat) (v : Byte) (s : State) : State :=
  if a < p.inCap then { s with inMem := s.inMem.write a v } else s

/-- A read of `CT[k]` (R62, R67). -/
def readCt (p : Params) (k : Nat) : ReadResult :=
  if k < 64 then .value (colourWord (p.ct (BitVec.ofNat 6 k))) else .value 0

/-- A read of CIG cell `i` = `8·y + x` (R63, R67, R68). -/
def State.readCig (i : Nat) (s : State) : ReadResult :=
  if i < 64 then
    if s.status.cigValid then .value ((cell s.cig (i / 8) (i % 8)).setWidth 32) else .invalid .invalidOutputRead
  else .value 0

/-- A read of pixel `i` of a store of `cap` pixels that holds `pixels`, the last result if `valid` (R64, R65, R67, R68). -/
def readPixel (cap : Nat) (valid : Bool) (pixels : Pixels) (i : Nat) : ReadResult :=
  if i < cap then
    if valid then
      match pixels[i]? with
      | some c => .value (colourWord c)
      | none => .unspecified
    else .invalid .invalidOutputRead
  else .value 0

/-- HOST has read what a read returned. -/
def State.answer (r : ReadResult) (s : State) : Host.Outcome State Fault Refusal :=
  match r with
  | .value w => .next { s with hostReads := s.hostReads ++ [w] }
  | .unspecified => .next { s with hostReads := s.hostReads ++ [Config.freeRead s.draws], draws := s.draws + 1 }
  | .invalid f => .fault f

/-- The refusal of a register write at an offset that is a multiple of 4 while BUSY = 1 (R230, R232, R233). -/
def busyWriteRefusal (offset : Nat) : Option Refusal :=
  match Reg.atOffset offset with
  | some .cmd => some .cmdWriteWhileBusy
  | some r => if r.isControl then some .inputWriteWhileBusy else none
  | none => none

/-- The refusal of a register read at an offset that is a multiple of 4 while BUSY = 1 (R230, R234). -/
def busyReadRefusal (offset : Nat) : Option Refusal :=
  match Reg.atOffset offset with
  | some r =>
    if r.isOutput then some .outputReadWhileBusy
    else if r.isControl then some .inputReadWhileBusy
    else none
  | none => none

/-- Whether, and why, the spec gives HOST no such move (R61, R230 to R234; DEDUCED, log entries 7, 13 and 22). -/
def HostOp.refusal (busy : Bool) : HostOp → Option Refusal
  | .wr offset _ =>
    if offset % 4 ≠ 0 then some .misalignedAccess else if busy then busyWriteRefusal offset else none
  | .rd offset =>
    if offset % 4 ≠ 0 then some .misalignedAccess else if busy then busyReadRefusal offset else none
  | .wb _ _ => if busy then some .inputWriteWhileBusy else none
  | .rb _ => if busy then some .inputReadWhileBusy else none
  | .rdct _ => if busy then some .inputReadWhileBusy else none
  | .rdcig _ => if busy then some .outputReadWhileBusy else none
  | .rdrb _ => if busy then some .outputReadWhileBusy else none
  | .rdfb _ => if busy then some .outputReadWhileBusy else none
  | .wrct _ _ => none
  | .wrcig _ _ => none
  | .wrrb _ _ => none
  | .wrfb _ _ => none
  | .wait => none
  | .reset => none

/-- The effect of a host operation that HOST has taken from its program; `wait` goes back while BUSY = 1 (R100; log entry 6). -/
def HostOp.perform (p : Params) (op : HostOp) (s : State) : Host.Outcome State Fault Refusal :=
  match op with
  | .wr offset v => .next (s.writeReg offset v)
  | .rd offset => s.answer (s.readReg offset)
  | .wb a v => .next (s.writeIn p a v)
  | .rb a => s.answer (s.readIn p a)
  | .rdct k => s.answer (readCt p k)
  | .rdcig i => s.answer (s.readCig i)
  | .rdrb i => s.answer (readPixel p.rbCap s.status.rbValid s.rb i)
  | .rdfb i => s.answer (readPixel p.fbCap s.status.fbValid s.fb i)
  | .wrct _ _ => .next s
  | .wrcig _ _ => .next s
  | .wrrb _ _ => .next s
  | .wrfb _ _ => .next s
  | .wait => if s.status.busy then .next { s with hostOps := .wait :: s.hostOps } else .next s
  | .reset => .next s.assertReset

/-- HOST's step: the first operation of its program; a HOST with nothing left to do changes nothing (R227, R238;
log entry 17). -/
def hostStep (p : Params) (s : State) : Host.Outcome State Fault Refusal :=
  match s.hostOps with
  | [] => .next s
  | op :: rest =>
    match op.refusal s.status.busy with
    | some r => .refused r
    | none => op.perform p { s with hostOps := rest }

end Sys2Proof.Machine
end

