-- ==== Sys2Proof/Machine/Step.lean ====
section
/-!
DEFINITION. One step of the machine: BLOCK's when it is enabled and its time has come, HOST's otherwise (10_state.md R20, R21;
20_memory.md R77; 70_reset_and_hazards.md R262).
-/

namespace Sys2Proof.Machine

/-- BLOCK is enabled exactly when BUSY = 1 (R21) and takes its step once `delay` has run down (R262, log entry 5); until then, and
while BUSY = 0, HOST moves. -/
def step (s : State) : Host.Outcome State Fault Refusal :=
  if s.status.busy then
    match s.delay with
    | 0 => blockStep s
    | k + 1 => hostStep Config.params { s with delay := k }
  else hostStep Config.params s

/-- The command word `w` pending, as a CMD write leaves it (R231), with BLOCK's step the very next one. A command is one word, so
`nbits` is at most 32 and the bits above it are zero. Log entries 16 and 21. -/
def State.withFetchWord (s : State) (_nbits w : Nat) : State := placeCommand (BitVec.ofNat 32 w) s

end Sys2Proof.Machine
end

