-- ==== Sys2Proof/Safety.lean ====
section
/-!
DEFINITION. The terms claims about runs are stated in: the two completions written out (60_exceptions.md R214, R215), whose move it is
(10_state.md R21), the invariants every step keeps, and the programs of a HOST that waits for every command it starts.
-/

namespace Sys2Proof.Machine

/-- The state a fault completion leaves, field by field as R214 lists them. -/
def faultCompletion (s : State) (code : ErrCode) (req avail : Nat) : State :=
  { s with
    status := { s.status with errCode := code, faulted := true, done := false, warn := false, busy := false }
    errReq := BitVec.ofNat 32 req
    errAvail := BitVec.ofNat 32 avail }

/-- STATUS, ERR_REQ and ERR_AVAIL as a success completion leaves them, field by field as R215 lists them. -/
def successCompletion (s : State) (warn : Bool) : State :=
  { s with
    status := { s.status with errCode := .none, done := true, warn := warn, busy := false }
    errReq := 0
    errAvail := 0 }

/-- It is HOST's move in `s`, and `u` is the state its operation sees: BUSY = 0, or BUSY = 1 with BLOCK's step still to come, in
which case one of the moves BLOCK lets pass is spent (R21, R77, R262). -/
def HostMoves (s u : State) : Prop :=
  (s.status.busy = false ∧ u = s) ∨ (s.status.busy = true ∧ ∃ k, s.delay = k + 1 ∧ u = { s with delay := k })

/-- It is BLOCK's move: BUSY = 1 and no move is let pass any more (R21, R262). -/
def BlockMoves (s : State) : Prop := s.status.busy = true ∧ s.delay = 0

/-- HOST has written every byte of IN that the command reads, as R254 asks: DECODE its tile's 16 bytes, COMPOSE those of every whole
tile, the others none (20_memory.md R71). -/
def InputsWritten : Instr → State → Prop
  | .decode, s => ∀ k, k < 16 → (s.inMem.read (16 * s.tileIndex.toNat + k)).isSome = true
  | .resolve, _ => True
  | .raster, _ => True
  | .compose, s => ∀ a, a < 16 * (s.inLen.toNat / 16) → (s.inMem.read a).isSome = true

/-- IN is in canonical form and inside the store: every listed address is below IN_CAP (20_memory.md R60, R66). -/
def InputOk (p : Params) (s : State) : Prop := s.inMem.wf = true ∧ ∀ c ∈ s.inMem, c.1 < p.inCap

/-- The raster block and the sheet fit their stores and have the extent their size registers say (R33, R34, R40, R64, R65, R212). -/
structure StoresOk (p : Params) (s : State) : Prop where
  rbExtent : s.rb.length = s.rbDim.toNat * s.rbDim.toNat
  rbFits : s.rb.length ≤ p.rbCap
  rbSide : s.rbDim.toNat ≤ p.maxDim ∧ 8 ∣ s.rbDim.toNat
  fbExtent : s.fb.length = s.fbHeight.toNat * s.fbWidth.toNat
  fbFits : s.fb.length ≤ p.fbCap
  fbSides : s.fbWidth.toNat ≤ p.maxDim ∧ s.fbHeight.toNat ≤ p.maxDim ∧ 8 ∣ s.fbWidth.toNat ∧ 8 ∣ s.fbHeight.toNat
  tilesInBuffer : s.tileCount.toNat * 16 ≤ p.inCap

/-- What STATUS, the error registers and the output registers say of one another (R26, R36, R41, R217). -/
structure StatusOk (s : State) : Prop where
  busyNotDone : s.status.busy = true → s.status.done = false
  doneNoError : s.status.done = true → s.status.errCode = .none
  errorFaulted : s.status.errCode ≠ .none → s.status.faulted = true
  noErrorNoSizes : s.status.errCode = .none → s.errReq = 0 ∧ s.errAvail = 0
  warnSheet : s.status.warn = true → s.status.errCode = .none ∧ s.status.fbValid = true
  rbFromInputs : s.status.rbValid = true → s.status.cigValid = true ∧ s.status.rpalValid = true
  rpalInvalid : s.status.rpalValid = false → ∀ n : Fin 4, s.rpal[n] = black
  rbInvalid : s.status.rbValid = false → s.rbDim = 0
  fbInvalid : s.status.fbValid = false → s.fbWidth = 0 ∧ s.fbHeight = 0 ∧ s.tileCount = 0

/-- The invariant of the machine. -/
def Inv (p : Params) (s : State) : Prop := InputOk p s ∧ StoresOk p s ∧ StatusOk s

/-- A program of a HOST that keeps its duties by waiting: register accesses are aligned and every CMD write is followed at once by
`wait` (R100, R232 to R234, R260). -/
def waitsForCommands : List HostOp → Bool
  | [] => true
  | op :: rest =>
    (match op with
      | .wr offset _ => offset % 4 = 0 && (offset ≠ 0 || rest.head? = some .wait)
      | .rd offset => offset % 4 = 0
      | _ => true) && waitsForCommands rest

/-- HOST is well behaved from here on: its remaining program waits for every command, the pending one included. -/
def Disciplined (s : State) : Prop :=
  waitsForCommands s.hostOps = true ∧ (s.status.busy = true → s.hostOps.head? = some .wait)

/-- `k` steps of the machine, as the host's interface runs it. -/
def runFor (k : Nat) (s : State) : Host.Outcome State Fault Refusal := Host.Core.run core k s

/-- A safe outcome: HOST made no move the spec gives it no right to. -/
def NotRefused (o : Host.Outcome State Fault Refusal) : Prop := ∀ r, o ≠ .refused r

end Sys2Proof.Machine
end

