-- ==== Sys2Proof/Certificates/Slice0/Obligations.lean ====
section
/-!
DEFINITION. The statements about the model, each from the numbered rules of spec/. A statement about `exec` holds for the built
hardware's parameters, `Config.params`, about which nothing is known; three that need room for a larger sheet are said of the
command on any parameters `p`, of which the meaning is the case `Config.params`.
-/

open Sys2Proof Sys2Proof.Machine

/-! ## Encoding and decoding -/

/-- R91, R98: a word selects a command exactly when all 32 bits equal the word in the table. -/
def Obligations.FourWordsSelectTheFourCommands : Prop :=
  ∀ w : Word,
    (decode w = .command .decode ↔ w = 0x00000001#32) ∧ (decode w = .command .resolve ↔ w = 0x00000002#32) ∧
    (decode w = .command .raster ↔ w = 0x00000003#32) ∧ (decode w = .command .compose ↔ w = 0x00000004#32)

/-- R92: a word whose OP is 0x0 or 0x5..0xF, or whose RSV is not 0, is illegal: BLOCK's step raises ILLEGAL_COMMAND with sizes 0, 0
and writes no output; every other word is a command. -/
def Obligations.IllegalWordsFault : Prop :=
  ∀ s : State,
    let op := s.pending.toNat % 16
    let rsv := s.pending.toNat / 16
    (BlockMoves s → (op = 0 ∨ 5 ≤ op ∨ rsv ≠ 0) → step s = .next (faultCompletion s .illegalCommand 0 0)) ∧
    (¬ (op = 0 ∨ 5 ≤ op ∨ rsv ≠ 0) → ∃ i, decode s.pending = .command i ∧ (opcode i).toNat = op)

/-- Sanity, from the table of R91 and the vectors V50 to V54: four legal words and five illegal ones. -/
def Obligations.TableWordsDecodeAsWritten : Prop :=
  decode 0x00000001#32 = .command .decode ∧ decode 0x00000002#32 = .command .resolve ∧
  decode 0x00000003#32 = .command .raster ∧ decode 0x00000004#32 = .command .compose ∧
  decode 0x00000000#32 = .illegalCommand ∧ decode 0x00000005#32 = .illegalCommand ∧
  decode 0x0000000F#32 = .illegalCommand ∧ decode 0x00000011#32 = .illegalCommand ∧
  decode 0x80000001#32 = .illegalCommand

/-- Decoding what was encoded gives the command back, also through the numbering of the opcode table. -/
def Obligations.DecodeOfEncodeIsTheCommand : Prop :=
  ∀ i : Instr, decode (encode i) = .command i ∧ decodeTableWord 32 (encode i).toNat = some i

/-- R69: no rule depends on the byte order of the host bus: in either order the bytes of a word decode as the word does. -/
def Obligations.BusOrderDoesNotMatter : Prop :=
  ∀ (e : Endian) (w : Word), busWord e (busBytes e w) = some w ∧ decodeBytes e (busBytes e w) = decode w

/-! ## Steps of BLOCK and HOST -/

/-- R21: BLOCK, enabled while BUSY = 1, executes the command held in PENDING, and step adds nothing around it. -/
def Obligations.BlockStepRunsThePendingCommand : Prop :=
  ∀ (s : State) (i : Instr), BlockMoves s → decode s.pending = .command i → step s = exec i s

/-- The state a command word is placed in runs it next: step there is exec of the decoded command. -/
def Obligations.PlacedWordRunsNext : Prop :=
  ∀ (s : State) (i : Instr) (w : Nat), decodeTableWord 32 w = some i →
    step (s.withFetchWord 32 w) = exec i (s.withFetchWord 32 w)

/-- R231: a CMD write while BUSY = 0 does PENDING <- w, BUSY <- 1, DONE <- 0 and nothing else, whatever the word. (`delay` and `draws`
are the model's own: when BLOCK takes its step is free, log entry 5.) -/
def Obligations.CmdWriteStartsACommand : Prop :=
  ∀ (s : State) (w : Word) (rest : List HostOp), s.status.busy = false → s.hostOps = .wr 0x00 w :: rest →
    ∃ t, step s = .next t ∧
      t = { s with
            pending := w
            status := { s.status with busy := true, done := false }
            hostOps := rest
            delay := t.delay
            draws := t.draws }

/-- V55: a read of STATUS between the CMD write and BLOCK's step returns BUSY = 1 and DONE = 0 and changes nothing of the block. -/
def Obligations.StatusReadWhilePending : Prop :=
  ∀ (s : State) (w : Word) (rest : List HostOp), s.status.busy = false → s.hostOps = .wr 0x00 w :: .rd 0x04 :: rest →
    ∃ t, step s = .next t ∧ (t.delay = 0 ∨ ∃ u v, step t = .next u ∧ u.hostReads = s.hostReads ++ [v] ∧
      v.getLsbD 0 = true ∧ v.getLsbD 1 = false ∧ u = { t with hostOps := rest, hostReads := u.hostReads, delay := u.delay })

/-- R26, R211: the fields of STATUS stand at the bits the table gives, bits [31:12] read 0, and the fault codes have their numbers. -/
def Obligations.StatusWordLayout : Prop :=
  (∀ st : Status,
    st.word.getLsbD 0 = st.busy ∧ st.word.getLsbD 1 = st.done ∧ st.word.getLsbD 2 = st.faulted ∧ st.word.getLsbD 3 = st.warn ∧
    st.word.getLsbD 4 = st.cigValid ∧ st.word.getLsbD 5 = st.rpalValid ∧ st.word.getLsbD 6 = st.rbValid ∧
    st.word.getLsbD 7 = st.fbValid ∧ st.word.extractLsb' 8 4 = st.errCode.code ∧ st.word.extractLsb' 12 20 = 0 ∧
    st.errCode.code.toNat ≤ 6) ∧
  ErrCode.none.code = 0 ∧ ErrCode.illegalCommand.code = 1 ∧ ErrCode.range.code = 2 ∧ ErrCode.badScale.code = 3 ∧
  ErrCode.badTpr.code = 4 ∧ ErrCode.notReady.code = 5 ∧ ErrCode.capacity.code = 6

/-- R27 to R31: each control register stores all 32 bits of what HOST writes, a read returns them unchanged, and no other register
reads differently. -/
def Obligations.ControlRegistersStoreWhatIsWritten : Prop :=
  ∀ (s : State) (off : Nat) (v : Word) (rest : List HostOp),
    off ∈ [0x08, 0x0C, 0x10, 0x14, 0x18, 0x1C, 0x20, 0x24] → s.status.busy = false → s.hostOps = .wr off v :: .rd off :: rest →
    ∃ t u, step s = .next t ∧ step t = .next u ∧ u.hostReads = s.hostReads ++ [v] ∧ u.hostOps = rest ∧
      (∀ off', off' ≠ off → u.readReg off' = s.readReg off') ∧ u.inMem = s.inMem ∧ u.cig = s.cig ∧ u.rb = s.rb ∧ u.fb = s.fb ∧
      u.pending = s.pending

/-- R24: what a read of each register returns while BUSY = 0, RPAL0..3 under RPAL_VALID (R68). The read changes no register. That
RB_DIM, FB_WIDTH, FB_HEIGHT and TILE_COUNT read their stored value also while RB_VALID or FB_VALID is 0 is the model's choice, log
entry 14 (DEDUCED). -/
def Obligations.RegisterMapReads : Prop :=
  ∀ (s : State) (off : Nat) (v : Word) (rest : List HostOp), s.status.busy = false → s.hostOps = .rd off :: rest →
    ((off, v) ∈ [(0x00, 0#32), (0x04, s.status.word), (0x08, s.inLen), (0x0C, s.tileIndex), (0x10, s.tilesPerRow), (0x14, s.scale),
        (0x18, s.psel[0]), (0x1C, s.psel[1]), (0x20, s.psel[2]), (0x24, s.psel[3]), (0x38, s.rbDim), (0x3C, s.fbWidth),
        (0x40, s.fbHeight), (0x44, s.tileCount), (0x48, s.errReq), (0x4C, s.errAvail)] ∨
      (s.status.rpalValid = true ∧ ∃ n : Fin 4, off = 0x28 + 4 * n.val ∧ v = colourWord s.rpal[n])) →
    step s = .next { s with hostOps := rest, hostReads := s.hostReads ++ [v] }

/-- R37: offsets 0x50 to 0xFC read 0 and ignore writes, whoever moves next; STATUS bits [31:12] read 0; a CMD word with a nonzero bit
in [31:4] makes the command fault; the RPAL words' bits [31:24] read 0. -/
def Obligations.ReservedOffsetsAndBits : Prop :=
  (∀ (s u : State) (k : Nat) (rest : List HostOp), HostMoves s u → 0x14 ≤ k → k ≤ 0x3F → s.hostOps = .rd (4 * k) :: rest →
    step s = .next { u with hostOps := rest, hostReads := s.hostReads ++ [0] }) ∧
  (∀ (s u : State) (k : Nat) (v : Word) (rest : List HostOp), HostMoves s u → 0x14 ≤ k → k ≤ 0x3F →
    s.hostOps = .wr (4 * k) v :: rest → step s = .next { u with hostOps := rest }) ∧
  (∀ st : Status, st.word.toNat < 2 ^ 12) ∧
  (∀ s : State, BlockMoves s → 16 ≤ s.pending.toNat → ∃ t, step s = .next t ∧ t.status.errCode = .illegalCommand) ∧
  (∀ (s : State) (n : Fin 4) (v : Word), s.readReg (0x28 + 4 * n.val) = .value v → v.toNat < 2 ^ 24)

/-- R67, R230: a write to a read-only register, to CT, CIG, RB or FB is ignored whenever HOST moves, and so is a write outside REG or,
while BUSY = 0, outside IN. -/
def Obligations.IgnoredWrites : Prop :=
  ∀ (s u : State) (op : HostOp) (rest : List HostOp) (n : Nat) (v : Word) (b : Byte), HostMoves s u → s.hostOps = op :: rest →
    ((op = .wr n v ∧ n ∈ [0x04, 0x28, 0x2C, 0x30, 0x34, 0x38, 0x3C, 0x40, 0x44, 0x48, 0x4C]) ∨
      op = .wrct n v ∨ op = .wrcig n v ∨ op = .wrrb n v ∨ op = .wrfb n v ∨ (op = .wr (4 * n) v ∧ 0x100 ≤ 4 * n) ∨
      (op = .wb n b ∧ Config.params.inCap ≤ n ∧ s.status.busy = false)) →
    step s = .next { u with hostOps := rest }

/-- R66: writing byte v at an index inside IN sets IN[a] and no other byte, a read of index a returns it, and BLOCK's read returns it
too; nothing else changes. -/
def Obligations.InputWriteThenRead : Prop :=
  ∀ (s : State) (a : Nat) (v : Byte) (rest : List HostOp), a < Config.params.inCap → s.status.busy = false →
    s.hostOps = .wb a v :: .rb a :: rest →
    ∃ t u, step s = .next t ∧ step t = .next u ∧ u.hostReads = s.hostReads ++ [v.setWidth 32] ∧
      u.inByte a = v ∧ (∀ a', a' ≠ a → u.inMem.read a' = s.inMem.read a' ∧ u.inByte a' = s.inByte a') ∧
      u = { s with inMem := u.inMem, hostReads := u.hostReads, hostOps := rest }

/-- R62, R63: a read of CT index k returns CT[k] as an RGB24 word; a read of CIG index 8y + x returns the cell zero-extended, so that
bits [31:2] are 0. -/
def Obligations.ColourTableAndGridReads : Prop :=
  (∀ (s : State) (k : Nat) (rest : List HostOp), s.status.busy = false → k ≤ 63 → s.hostOps = .rdct k :: rest →
    ∃ v : Word, step s = .next { s with hostOps := rest, hostReads := s.hostReads ++ [v] } ∧
      v.toNat = (Config.params.ct (BitVec.ofNat 6 k)).r.toNat * 2 ^ 16 + (Config.params.ct (BitVec.ofNat 6 k)).g.toNat * 2 ^ 8 +
        (Config.params.ct (BitVec.ofNat 6 k)).b.toNat) ∧
  (∀ (s : State) (y x : Nat) (rest : List HostOp), s.status.busy = false → s.status.cigValid = true → y ≤ 7 → x ≤ 7 →
    s.hostOps = .rdcig (8 * y + x) :: rest →
    ∃ v : Word, step s = .next { s with hostOps := rest, hostReads := s.hostReads ++ [v] } ∧
      v.toNat = (cell s.cig y x).toNat ∧ v.toNat < 4)

/-- R64, R65: in a state that meets the invariant, a read of RB index py * D + px, or of FB index Y * W + X, inside the extent of the
last result returns that pixel as an RGB24 word. -/
def Obligations.PixelReadsAreRowMajor : Prop :=
  (∀ (s : State) (py px : Nat) (rest : List HostOp), Inv Config.params s → s.status.busy = false → s.status.rbValid = true →
    py < s.rbDim.toNat → px < s.rbDim.toNat → s.hostOps = .rdrb (py * s.rbDim.toNat + px) :: rest →
    ∃ c, s.rb[py * s.rbDim.toNat + px]? = some c ∧
      step s = .next { s with hostOps := rest, hostReads := s.hostReads ++ [colourWord c] }) ∧
  (∀ (s : State) (y x : Nat) (rest : List HostOp), Inv Config.params s → s.status.busy = false → s.status.fbValid = true →
    y < s.fbHeight.toNat → x < s.fbWidth.toNat → s.hostOps = .rdfb (y * s.fbWidth.toNat + x) :: rest →
    ∃ c, s.fb[y * s.fbWidth.toNat + x]? = some c ∧
      step s = .next { s with hostOps := rest, hostReads := s.hostReads ++ [colourWord c] })

/-- R67: while BUSY = 0, a read at an index outside a space's range returns 0. -/
def Obligations.OutOfRangeReadsReturnZero : Prop :=
  ∀ (s : State) (op : HostOp) (n : Nat) (rest : List HostOp), s.status.busy = false → s.hostOps = op :: rest →
    ((op = .rd (4 * n) ∧ 0x100 ≤ 4 * n) ∨ (op = .rb n ∧ Config.params.inCap ≤ n) ∨ (op = .rdct n ∧ 64 ≤ n) ∨
      (op = .rdcig n ∧ 64 ≤ n) ∨ (op = .rdrb n ∧ Config.params.rbCap ≤ n) ∨ (op = .rdfb n ∧ Config.params.fbCap ≤ n)) →
    step s = .next { s with hostOps := rest, hostReads := s.hostReads ++ [0] }

/-- R67, I4: a read inside the store of a valid RB or FB but beyond the extent of its last result completes with some word, about
which nothing is said, and changes nothing else (`draws` is the model's own counter of free values). -/
def Obligations.ReadsBeyondTheExtentComplete : Prop :=
  ∀ (s : State) (op : HostOp) (n : Nat) (rest : List HostOp), Inv Config.params s → s.status.busy = false → s.hostOps = op :: rest →
    ((op = .rdrb n ∧ s.status.rbValid = true ∧ s.rbDim.toNat * s.rbDim.toNat ≤ n ∧ n < Config.params.rbCap) ∨
      (op = .rdfb n ∧ s.status.fbValid = true ∧ s.fbWidth.toNat * s.fbHeight.toNat ≤ n ∧ n < Config.params.fbCap)) →
    ∃ (v : Word) (d : Nat), step s = .next { s with hostOps := rest, hostReads := s.hostReads ++ [v], draws := d }

/-- R68, D21, I3: a HOST read of CIG, RPAL0..3, RB or FB inside its range while its valid bit is 0, and of an IN byte HOST has not
written since reset, is a fault of the claim. -/
def Obligations.UnspecifiedHostReadsFault : Prop :=
  ∀ (s : State) (op : HostOp) (n : Nat) (rest : List HostOp), s.status.busy = false → s.hostOps = op :: rest →
    (((op = .rdcig n ∧ n < 64 ∧ s.status.cigValid = false) ∨
        (op = .rd (0x28 + 4 * n) ∧ n < 4 ∧ s.status.rpalValid = false) ∨
        (op = .rdrb n ∧ n < Config.params.rbCap ∧ s.status.rbValid = false) ∨
        (op = .rdfb n ∧ n < Config.params.fbCap ∧ s.status.fbValid = false)) → step s = .fault .invalidOutputRead) ∧
    (op = .rb n ∧ n < Config.params.inCap ∧ s.inMem.read n = none → step s = .fault .unwrittenInputRead)

/-- R230, R232 to R234, I5 to I7: while BUSY = 1 the model gives HOST no write of CMD, IN or a control register and no read of an
output, of IN, of CT or of a control register, and never an access to REG at an offset that is no multiple of 4. The model's choices
(DEDUCED): the reads of IN, CT and the control registers are refused (log entry 13), so is every access to IN, CT, CIG, RB or FB at an
index out of range (log entry 22), and ERR_REQ and ERR_AVAIL count as outputs (log entry 23). -/
def Obligations.BrokenHostDutiesAreRefused : Prop :=
  ∀ (s u : State) (op : HostOp) (n : Nat) (v : Word) (b : Byte) (rest : List HostOp), HostMoves s u → s.hostOps = op :: rest →
    (s.status.busy = true → op = .wr 0x00 v → step s = .refused .cmdWriteWhileBusy) ∧
    (s.status.busy = true → (op = .wb n b ∨ (op = .wr n v ∧ n ∈ [0x08, 0x0C, 0x10, 0x14, 0x18, 0x1C, 0x20, 0x24])) →
      step s = .refused .inputWriteWhileBusy) ∧
    (s.status.busy = true → (op = .rdcig n ∨ op = .rdrb n ∨ op = .rdfb n ∨
        (op = .rd n ∧ n ∈ [0x28, 0x2C, 0x30, 0x34, 0x38, 0x3C, 0x40, 0x44, 0x48, 0x4C])) →
      step s = .refused .outputReadWhileBusy) ∧
    (s.status.busy = true → (op = .rb n ∨ op = .rdct n ∨ (op = .rd n ∧ n ∈ [0x08, 0x0C, 0x10, 0x14, 0x18, 0x1C, 0x20, 0x24])) →
      step s = .refused .inputReadWhileBusy) ∧
    (n % 4 ≠ 0 → (op = .wr n v ∨ op = .rd n) → step s = .refused .misalignedAccess)

/-- R73: no read has a side effect: a HOST read that completes changes what HOST has read and its remaining program, and nothing of
the block. -/
def Obligations.ReadsHaveNoSideEffect : Prop :=
  ∀ (s u t : State) (op : HostOp) (n : Nat) (rest : List HostOp), HostMoves s u → s.hostOps = op :: rest →
    (op = .rd n ∨ op = .rb n ∨ op = .rdct n ∨ op = .rdcig n ∨ op = .rdrb n ∨ op = .rdfb n) → step s = .next t →
    t = { u with hostOps := rest, hostReads := t.hostReads, draws := t.draws } ∧ ∃ v, t.hostReads = s.hostReads ++ [v]

/-- R100: `wait` stays while BUSY = 1 and is done once BUSY = 0, and changes nothing else. -/
def Obligations.WaitPollsUntilNotBusy : Prop :=
  ∀ (s u : State) (rest : List HostOp), HostMoves s u → s.hostOps = .wait :: rest →
    step s = .next { u with hostOps := if s.status.busy then .wait :: rest else rest }

/-- R227: idle, with nothing left for HOST to do, keeps every piece of state. -/
def Obligations.IdleKeepsEverything : Prop :=
  ∀ s : State, s.status.busy = false → s.hostOps = [] → step s = .next s

/-! ## Reset -/

/-- R250, R251: reset, asserted whenever HOST moves, puts every register at its value of R41, abandons a pending command, marks every
output invalid and leaves every byte of IN unspecified; HOST keeps the rest of its program and what it has read. The model's choices:
that every byte counts as unwritten (log entry 2, DEDUCED), what HOST keeps (log entry 6, DESIGN CHOICE), and that reset is a move of
HOST (log entry 12, DEDUCED). -/
def Obligations.ResetFromAnyState : Prop :=
  ∀ (s u : State) (rest : List HostOp), HostMoves s u → s.hostOps = .reset :: rest →
    ∃ t, step s = .next t ∧ t.status.word = 0 ∧ t.status.busy = false ∧ t.inLen = 0 ∧ t.tileIndex = 0 ∧ t.tilesPerRow = 16 ∧
      t.scale = 1 ∧ t.psel = #v[0x0F, 0x20, 0x28, 0x30] ∧ (∀ n : Fin 4, colourWord t.rpal[n] = 0) ∧ t.rbDim = 0 ∧
      t.fbWidth = 0 ∧ t.fbHeight = 0 ∧ t.tileCount = 0 ∧ t.errReq = 0 ∧ t.errAvail = 0 ∧ (∀ a, t.inMem.read a = none) ∧
      t.hostOps = rest ∧ t.hostReads = s.hostReads

/-- R41: the values the spec gives for reset, in the state the machine starts in. -/
def Obligations.StartStateHasTheResetValues : Prop :=
  State.reset.status.word = 0 ∧ State.reset.inLen = 0 ∧ State.reset.tileIndex = 0 ∧ State.reset.tilesPerRow = 16 ∧
  State.reset.scale = 1 ∧ State.reset.psel = #v[0x0F, 0x20, 0x28, 0x30] ∧ (∀ n : Fin 4, colourWord State.reset.rpal[n] = 0) ∧
  State.reset.rbDim = 0 ∧ State.reset.fbWidth = 0 ∧ State.reset.fbHeight = 0 ∧ State.reset.tileCount = 0 ∧
  State.reset.errReq = 0 ∧ State.reset.errAvail = 0 ∧ State.reset.readReg 0x00 = .value 0

/-! ## DECODE -/

/-- DECODE completes when IN_LEN fits IN, the tile lies inside the buffer and HOST has written its bytes (R254); cell (y, x) is then
(high << 1) | low of the bits 7 - x of the two plane bytes (R94, R95), and only CIG, CIG_VALID and the completion fields change (R215). -/
def Obligations.DecodeCompletes : Prop :=
  ∀ s : State, s.inLen.toNat ≤ Config.params.inCap → (s.tileIndex.toNat + 1) * 16 ≤ s.inLen.toNat →
    InputsWritten .decode s →
    ∃ t, exec .decode s = .next t ∧
      (∀ y x, y ≤ 7 → x ≤ 7 → (cell t.cig y x).toNat =
        2 * ((s.inByte (16 * s.tileIndex.toNat + 8 + y)).getLsbD (7 - x)).toNat +
          ((s.inByte (16 * s.tileIndex.toNat + y)).getLsbD (7 - x)).toNat) ∧
      t = { successCompletion s false with
            cig := t.cig
            status := { (successCompletion s false).status with cigValid := true } }

/-- R122: the whole rule of DECODE: its word, its two checks in order with exact sizes, saturated, and its success; and R68, I2: past the
checks, a byte of the tile that HOST has not written since reset is a fault of the claim. -/
def Obligations.DecodeWholeRule : Prop :=
  decode 0x00000001#32 = .command .decode ∧
  ∀ s : State,
    let tile := s.tileIndex.toNat
    let len := s.inLen.toNat
    if len > Config.params.inCap then
      exec .decode s = .next (faultCompletion s .capacity (min len (2 ^ 32 - 1)) Config.params.inCap)
    else if len < (tile + 1) * 16 then
      exec .decode s = .next (faultCompletion s .range (min ((tile + 1) * 16) (2 ^ 32 - 1)) len)
    else
      (InputsWritten .decode s → ∃ t, exec .decode s = .next t ∧ t.cig = decodeTile s tile ∧
        t = { successCompletion s false with
              cig := t.cig
              status := { (successCompletion s false).status with cigValid := true } }) ∧
      (¬ InputsWritten .decode s → exec .decode s = .fault .unwrittenInputRead)

/-- R124: changing bit 7 - x of lo(i, y) changes only G[y][x], by one; of hi(i, y), only G[y][x], by two. -/
def Obligations.DecodedPixelDependsOnItsTwoBits : Prop :=
  ∀ (s : State) (i y x : Nat), y ≤ 7 → x ≤ 7 →
    let flip (a : Nat) : State := { s with inMem := s.inMem.write a (s.inByte a ^^^ BitVec.twoPow 8 (7 - x)) }
    let low := decodeTile (flip (16 * i + y)) i
    let high := decodeTile (flip (16 * i + 8 + y)) i
    let old := decodeTile s i
    (∀ y' x', y' ≤ 7 → x' ≤ 7 → (y', x') ≠ (y, x) → cell low y' x' = cell old y' x' ∧ cell high y' x' = cell old y' x') ∧
    ((cell low y x).toNat = (cell old y x).toNat + 1 ∨ (cell low y x).toNat + 1 = (cell old y x).toNat) ∧
    ((cell high y x).toNat = (cell old y x).toNat + 2 ∨ (cell high y x).toNat + 2 = (cell old y x).toNat)

/-- R93, R121, R123: DECODE depends only on TILE_INDEX, IN_LEN and the 16 bytes of its tile. -/
def Obligations.DecodeReadsOnlyItsTile : Prop :=
  ∀ s u t v : State, s.tileIndex = u.tileIndex → s.inLen = u.inLen →
    (∀ k, k < 16 → s.inByte (16 * s.tileIndex.toNat + k) = u.inByte (16 * u.tileIndex.toNat + k)) →
    exec .decode s = .next t → exec .decode u = .next v →
    t.status.errCode = v.status.errCode ∧ t.errReq = v.errReq ∧ t.errAvail = v.errAvail ∧
      (t.status.errCode = .none → t.cig = v.cig)

/-! ## RESOLVE -/

/-- R142: the whole rule of RESOLVE: its word, no fault for any PSEL, RPALn <- CT[PSELn[5:0]] with bits [31:24] zero, and the success
completion. -/
def Obligations.ResolveCompletes : Prop :=
  decode 0x00000002#32 = .command .resolve ∧
  ∀ s : State, ∃ t, exec .resolve s = .next t ∧
    (∀ n : Fin 4, t.rpal[n] = Config.params.ct (BitVec.ofNat 6 (s.psel[n].toNat % 64)) ∧ (colourWord t.rpal[n]).toNat < 2 ^ 24) ∧
    t = { successCompletion s false with
          rpal := t.rpal
          status := { (successCompletion s false).status with rpalValid := true } }

/-- R144, R141: palette indices alias modulo 64; 64 selects entry 0, 67 entry 3 and -1 entry 63. -/
def Obligations.PaletteIndicesAlias : Prop :=
  (∀ s u t v : State, (∀ n : Fin 4, s.psel[n].toNat % 64 = u.psel[n].toNat % 64) →
    exec .resolve s = .next t → exec .resolve u = .next v → t.rpal = v.rpal) ∧
  lookup Config.params 64 = lookup Config.params 0 ∧ lookup Config.params 67 = lookup Config.params 3 ∧
  lookup Config.params 0 = Config.params.ct 0 ∧ lookup Config.params 3 = Config.params.ct 3 ∧
  lookup Config.params (-1) = Config.params.ct 63

/-! ## RASTER -/

/-- R161: RASTER completes when CIG and RPAL are valid, the scale is positive and the block fits; pixel (py, px) is then the colour that
cell (py div S, px div S) selects, and only RB, RB_DIM, RB_VALID and the completion fields change. -/
def Obligations.RasterCompletes : Prop :=
  ∀ (s : State) (scale : Nat), s.status.cigValid = true → s.status.rpalValid = true → s.scale.toInt = (scale : Int) → 1 ≤ scale →
    8 * scale ≤ Config.params.maxDim → (8 * scale) * (8 * scale) ≤ Config.params.rbCap →
    ∃ t, exec .raster s = .next t ∧ t.rbDim.toNat = 8 * scale ∧
      (∀ py px, py < 8 * scale → px < 8 * scale →
        t.rb[py * (8 * scale) + px]? = s.rpal[(cell s.cig (py / scale) (px / scale)).toNat]?) ∧
      t = { successCompletion s false with
            rb := t.rb
            rbDim := t.rbDim
            status := { (successCompletion s false).status with rbValid := true } }

/-- R162: the whole rule of RASTER: its word, its four checks in order with their sizes, and its success. -/
def Obligations.RasterWholeRule : Prop :=
  decode 0x00000003#32 = .command .raster ∧
  ∀ s : State,
    let scale := s.scale.toInt
    let d := 8 * scale.toNat
    ∃ t, exec .raster s = .next t ∧
      if s.status.cigValid = false ∨ s.status.rpalValid = false then t = faultCompletion s .notReady 0 0
      else if scale < 1 then t = faultCompletion s .badScale 0 0
      else if d > Config.params.maxDim then t = faultCompletion s .capacity (min d (2 ^ 32 - 1)) Config.params.maxDim
      else if d * d > Config.params.rbCap then
        t = faultCompletion s .capacity (min (d * d) (2 ^ 32 - 1)) (min Config.params.rbCap (2 ^ 32 - 1))
      else t.rbDim.toNat = d ∧ t.rb.length = d * d ∧
        (∀ py px, py < d → px < d → t.rb[py * d + px]? = some (rasterize s.cig s.rpal scale.toNat py px)) ∧
        t = { successCompletion s false with
              rb := t.rb
              rbDim := t.rbDim
              status := { (successCompletion s false).status with rbValid := true } }

/-- R163: a raster block has exactly (8S) x (8S) pixels, every pixel is one of the four entries of RP, and every aligned S x S square is
one solid colour, mux(G[y][x], RP). -/
def Obligations.RasterSquaresAreSolid : Prop :=
  ∀ s t : State, exec .raster s = .next t → t.status.errCode = .none →
    let scale := s.scale.toInt.toNat
    t.rb.length = (8 * scale) * (8 * scale) ∧ (∀ c ∈ t.rb, ∃ n : Fin 4, c = s.rpal[n]) ∧
    ∀ y x py px, y ≤ 7 → x ≤ 7 → y * scale ≤ py → py < (y + 1) * scale → x * scale ≤ px → px < (x + 1) * scale →
      t.rb[py * (8 * scale) + px]? = some (mux (cell s.cig y x) s.rpal)

/-- R164: a block rasterized at any scale, downsampled to scale 1, is the block rasterized at scale 1 from the same grid and palette;
and so RB after a RASTER at any scale that succeeds is RB after one at scale 1. -/
def Obligations.RasterScaleInvariance : Prop :=
  (∀ (g : Grid) (rp : Palette) (scale y x a b : Nat), 1 ≤ scale → y ≤ 7 → x ≤ 7 → a < scale → b < scale →
    rasterize g rp scale (y * scale + a) (x * scale + b) = rasterize g rp 1 y x) ∧
  ∀ s t v : State, exec .raster s = .next t → exec .raster { s with scale := 1 } = .next v →
    t.status.errCode = .none → v.status.errCode = .none →
    let scale := s.scale.toInt.toNat
    ∀ y x a b, y ≤ 7 → x ≤ 7 → a < scale → b < scale → t.rb[(y * scale + a) * (8 * scale) + (x * scale + b)]? = v.rb[y * 8 + x]?

/-- R162, R261: RASTER reads CIG, RPAL, SCALE and two valid bits, and not IN, PSEL, TILE_INDEX or anything else. -/
def Obligations.RasterReadsOnlyItsOperands : Prop :=
  ∀ s u t v : State, s.cig = u.cig → s.rpal = u.rpal → s.scale = u.scale → s.status.cigValid = u.status.cigValid →
    s.status.rpalValid = u.status.rpalValid → exec .raster s = .next t → exec .raster u = .next v →
    t.status.errCode = v.status.errCode ∧ t.errReq = v.errReq ∧ t.errAvail = v.errAvail ∧
      (t.status.errCode = .none → t.rb = v.rb ∧ t.rbDim = v.rbDim)

/-! ## COMPOSE -/

/-- R183, R189: COMPOSE completes when the buffer fits IN, HOST has written its whole tiles (R254), TPR and S are positive and the sheet
fits; its registers are then the sheet's size and tile count, and every pixel has R189's closed form: BLACK where no tile is, and otherwise the colour that the tile's cell
selects from the palette resolved from PSEL. -/
def Obligations.ComposeClosedForm : Prop :=
  ∀ (s : State) (tpr scale : Nat), s.tilesPerRow.toInt = (tpr : Int) → s.scale.toInt = (scale : Int) → 1 ≤ tpr → 1 ≤ scale →
    let n := s.inLen.toNat / 16
    let d := 8 * scale
    let w := tpr * 8 * scale
    let h := ((n + tpr - 1) / tpr) * 8 * scale
    s.inLen.toNat ≤ Config.params.inCap → w ≤ Config.params.maxDim → h ≤ Config.params.maxDim → w * h ≤ Config.params.fbCap →
    InputsWritten .compose s →
    ∃ t, exec .compose s = .next t ∧ t.fbWidth.toNat = w ∧ t.fbHeight.toNat = h ∧ t.tileCount.toNat = n ∧ t.fb.length = w * h ∧
      (∀ y x, y < h → x < w → t.fb[y * w + x]? = some
        (if (y / d) * tpr + x / d < n then
          mux (cell (decodeTile s ((y / d) * tpr + x / d)) ((y % d) / scale) ((x % d) / scale)) (resolve Config.params s.psel)
        else black)) ∧
      t = { successCompletion s (s.inLen.toNat % 16 ≠ 0) with
            fb := t.fb
            fbWidth := t.fbWidth
            fbHeight := t.fbHeight
            tileCount := t.tileCount
            status := { (successCompletion s (s.inLen.toNat % 16 ≠ 0)).status with fbValid := true } }

/-- R182, R212, R213: the six checks of COMPOSE in order with their sizes; with none of them it succeeds, or, R68, I2, it reads a byte
that HOST has not written since reset, a fault of the claim. -/
def Obligations.ComposeChecksInOrder : Prop :=
  decode 0x00000004#32 = .command .compose ∧
  ∀ s : State,
    let len := s.inLen.toNat
    let tpr := s.tilesPerRow.toInt
    let scale := s.scale.toInt
    let w := tpr.toNat * (8 * scale.toNat)
    let h := ((len / 16 + tpr.toNat - 1) / tpr.toNat) * (8 * scale.toNat)
    if len > Config.params.inCap then exec .compose s = .next (faultCompletion s .capacity len Config.params.inCap)
    else if tpr < 1 then exec .compose s = .next (faultCompletion s .badTpr 0 0)
    else if scale < 1 then exec .compose s = .next (faultCompletion s .badScale 0 0)
    else if w > Config.params.maxDim then
      exec .compose s = .next (faultCompletion s .capacity (min w (2 ^ 32 - 1)) Config.params.maxDim)
    else if h > Config.params.maxDim then
      exec .compose s = .next (faultCompletion s .capacity (min h (2 ^ 32 - 1)) Config.params.maxDim)
    else if w * h > Config.params.fbCap then
      exec .compose s = .next (faultCompletion s .capacity (min (w * h) (2 ^ 32 - 1)) (min Config.params.fbCap (2 ^ 32 - 1)))
    else
      (InputsWritten .compose s → ∃ t, exec .compose s = .next t ∧ t.status.errCode = .none ∧ t.status.done = true ∧
        t.status.fbValid = true) ∧
      (¬ InputsWritten .compose s → exec .compose s = .fault .unwrittenInputRead)

/-- R184, R185: tile i of a sheet stands at grid row i div TPR, column i mod TPR, its raster block's pixel (py, px) at sheet pixel
(row * 8S + py, col * 8S + px). -/
def Obligations.TilesArePlacedRowMajor : Prop :=
  ∀ s t : State, exec .compose s = .next t → t.status.errCode = .none →
    let tpr := s.tilesPerRow.toInt.toNat
    let scale := s.scale.toInt.toNat
    let d := 8 * scale
    ∀ i py px, i < s.inLen.toNat / 16 → py < d → px < d →
      t.fb[((i / tpr) * d + py) * t.fbWidth.toNat + ((i % tpr) * d + px)]? =
        some (rasterize (decodeTile s i) (resolve Config.params s.psel) scale py px)

/-- R186: every sheet pixel that no tile covers is BLACK. On any parameters, since the smallest sheets have no such pixel; the meaning
of COMPOSE is the case `Config.params`. -/
def Obligations.UncoveredPixelsAreBlack : Prop :=
  ∀ (p : Params) (s : State), p.maxDim ≤ 2 ^ 32 - 1 → (composeCommand p s).status.errCode = .none →
    (InputsWritten .compose s → exec .compose s = .next (composeCommand Config.params s)) ∧
    let t := composeCommand p s
    let tpr := s.tilesPerRow.toInt.toNat
    let d := 8 * s.scale.toInt.toNat
    ∀ y x, y < t.fbHeight.toNat → x < t.fbWidth.toNat →
      (∀ i, i < s.inLen.toNat / 16 →
        ¬ ((i / tpr) * d ≤ y ∧ y < (i / tpr) * d + d ∧ (i % tpr) * d ≤ x ∧ x < (i % tpr) * d + d)) →
      ∃ c, t.fb[y * t.fbWidth.toNat + x]? = some c ∧ c.r = 0 ∧ c.g = 0 ∧ c.b = 0

/-- R4, R93: the sheet is the pipeline of the three single-tile commands: the block that DECODE of tile i, RESOLVE and RASTER leave in RB
is the square of tile i in COMPOSE's FB. -/
def Obligations.ComposeIsThePipelineOfTheOtherCommands : Prop :=
  ∀ (s a b c t : State) (i : Nat), i < s.inLen.toNat / 16 →
    exec .decode { s with tileIndex := BitVec.ofNat 32 i } = .next a → exec .resolve a = .next b → exec .raster b = .next c →
    exec .compose s = .next t → a.status.errCode = .none → c.status.errCode = .none → t.status.errCode = .none →
    let tpr := s.tilesPerRow.toInt.toNat
    let d := c.rbDim.toNat
    d = 8 * s.scale.toInt.toNat ∧ ∀ py px, py < d → px < d → ∃ colour,
      c.rb[py * d + px]? = some colour ∧
      t.fb[((i / tpr) * d + py) * t.fbWidth.toNat + ((i % tpr) * d + px)]? = some colour

/-- R188, R263, R44: the order in which the tiles are pasted does not change the sheet. -/
def Obligations.PasteOrderDoesNotMatter : Prop :=
  ∀ (s : State) (rp : Palette) (tpr scale n : Nat) (order : List Nat) (sheet : Pixels), 1 ≤ tpr → 1 ≤ scale →
    order.Perm (List.range n) → pasteTiles s rp tpr scale order sheet = pasteTiles s rp tpr scale (List.range n) sheet

/-- R187: with fewer than 16 bytes the sheet has height 0, width TPR * 8 * S and no pixel, and COMPOSE succeeds, warning iff IN_LEN is
not 0. -/
def Obligations.EmptySheet : Prop :=
  ∀ (s : State) (tpr scale : Nat), s.tilesPerRow.toInt = (tpr : Int) → s.scale.toInt = (scale : Int) → 1 ≤ tpr → 1 ≤ scale →
    s.inLen.toNat < 16 → tpr * 8 * scale ≤ Config.params.maxDim →
    ∃ t, exec .compose s = .next t ∧ t.fb = [] ∧ t.fbHeight = 0 ∧ t.fbWidth.toNat = tpr * 8 * scale ∧ t.tileCount = 0 ∧
      t.status.fbValid = true ∧ t.status.done = true ∧ t.status.errCode = .none ∧ (t.status.warn = true ↔ s.inLen ≠ 0)

/-- R190: 17 tiles, 16 per row, make exactly two rows of tiles at any scale, and tile 16 stands at row 1, column 0. On any parameters
with room for the sheet; the meaning of COMPOSE is the case `Config.params`. -/
def Obligations.SeventeenTilesMakeTwoRows : Prop :=
  ∀ (p : Params) (s : State) (scale : Nat), s.inLen.toNat / 16 = 17 → s.tilesPerRow.toInt = 16 → s.scale.toInt = (scale : Int) →
    1 ≤ scale → s.inLen.toNat ≤ p.inCap → 128 * scale ≤ p.maxDim → p.maxDim ≤ 2 ^ 32 - 1 →
    (128 * scale) * (16 * scale) ≤ p.fbCap →
    (InputsWritten .compose s → exec .compose s = .next (composeCommand Config.params s)) ∧
    (composeCommand p s).status.errCode = .none ∧ (composeCommand p s).fbHeight.toNat = 16 * scale ∧
    ∀ py px, py < 8 * scale → px < 8 * scale →
      (composeCommand p s).fb[(8 * scale + py) * (128 * scale) + px]? = some (rasterize (decodeTile s 16) (resolve p s.psel) scale py px)

/-- R191: a buffer of 17 bytes gives one tile, a warning and no failure. On any parameters with room for the sheet; the meaning of
COMPOSE is the case `Config.params`. -/
def Obligations.TrailingByteWarns : Prop :=
  ∀ (p : Params) (s : State) (tpr scale : Nat), s.inLen = 17 → s.tilesPerRow.toInt = (tpr : Int) → s.scale.toInt = (scale : Int) →
    1 ≤ tpr → 1 ≤ scale → 17 ≤ p.inCap → tpr * 8 * scale ≤ p.maxDim → tpr * 8 * scale * (8 * scale) ≤ p.fbCap →
    (InputsWritten .compose s → exec .compose s = .next (composeCommand Config.params s)) ∧
    (composeCommand p s).tileCount = 1 ∧ (composeCommand p s).status.warn = true ∧ (composeCommand p s).status.done = true ∧
    (composeCommand p s).status.errCode = .none

/-- R181: COMPOSE writes none of CIG, RPAL, RB, RB_DIM and changes none of their valid bits. -/
def Obligations.ComposeLeavesTheSingleTileOutputs : Prop :=
  ∀ s t : State, exec .compose s = .next t →
    t.cig = s.cig ∧ t.rpal = s.rpal ∧ t.rb = s.rb ∧ t.rbDim = s.rbDim ∧ t.status.cigValid = s.status.cigValid ∧
    t.status.rpalValid = s.status.rpalValid ∧ t.status.rbValid = s.status.rbValid

/-! ## Faults, completions, frames -/

/-- R213: the check order of each command: the code reported is that of the first check that fails; and R68, I2: with no check failing,
a command that reads a byte of IN HOST has not written since reset is a fault of the claim. -/
def Obligations.FaultCheckOrder : Prop :=
  ∀ (s : State) (i : Instr),
    let code : ErrCode :=
      match i with
      | .decode =>
        if s.inLen.toNat > Config.params.inCap then .capacity
        else if s.inLen.toNat < (s.tileIndex.toNat + 1) * 16 then .range else .none
      | .resolve => .none
      | .raster =>
        if ¬ (s.status.cigValid = true ∧ s.status.rpalValid = true) then .notReady
        else if s.scale.toInt ≤ 0 then .badScale
        else if 8 * s.scale.toInt.toNat > Config.params.maxDim then .capacity
        else if (8 * s.scale.toInt.toNat) ^ 2 > Config.params.rbCap then .capacity else .none
      | .compose =>
        let tpr := s.tilesPerRow.toInt.toNat
        let d := 8 * s.scale.toInt.toNat
        let rows := (s.inLen.toNat / 16 + tpr - 1) / tpr
        if s.inLen.toNat > Config.params.inCap then .capacity
        else if s.tilesPerRow.toInt ≤ 0 then .badTpr
        else if s.scale.toInt ≤ 0 then .badScale
        else if tpr * d > Config.params.maxDim ∨ rows * d > Config.params.maxDim ∨ tpr * d * (rows * d) > Config.params.fbCap
        then .capacity else .none
    (InputsWritten i s ∨ code ≠ .none → ∃ t, exec i s = .next t ∧ t.status.errCode = code) ∧
    (¬ InputsWritten i s → code = .none → exec i s = .fault .unwrittenInputRead)

/-- R230, R21: every command BLOCK starts ends, with BUSY = 0, in the success completion or in the fault completion; but for one that
reads a byte of IN HOST has not written since reset, the fault of the claim of R68 and I2. -/
def Obligations.EveryCommandEnds : Prop :=
  ∀ s : State, BlockMoves s →
    (∃ t, step s = .next t ∧ t.status.busy = false ∧
      ((t.status.errCode = .none ∧ t.status.done = true ∧ t.errReq = 0 ∧ t.errAvail = 0 ∧ t.status.faulted = s.status.faulted) ∨
        (t.status.errCode ≠ .none ∧ t.status.done = false ∧ t.status.warn = false ∧ t.status.faulted = true))) ∨
    (step s = .fault .unwrittenInputRead ∧ ∃ i, decode s.pending = .command i ∧ ¬ InputsWritten i s)

/-- R216: faults are precise: the state after a faulting command differs from the state before it only in the STATUS fields, ERR_REQ
and ERR_AVAIL of R214. -/
def Obligations.FaultsArePrecise : Prop :=
  ∀ s t : State, BlockMoves s → step s = .next t → t.status.errCode ≠ .none →
    t = faultCompletion s t.status.errCode t.errReq.toNat t.errAvail.toNat

/-- R217: FAULTED is sticky: once set, no step but HOST's reset clears it, and a later successful command sets DONE and ERRCODE = 0 but
leaves FAULTED = 1. -/
def Obligations.FaultedIsSticky : Prop :=
  (∀ s t : State, step s = .next t → s.status.faulted = true →
    t.status.faulted = true ∨ (¬ BlockMoves s ∧ ∃ rest, s.hostOps = .reset :: rest)) ∧
  (∀ (s t : State) (i : Instr), exec i s = .next t → s.status.faulted = true → t.status.done = true →
    t.status.errCode = .none ∧ t.status.faulted = true)

/-- R26: a valid bit, once set, is cleared by HOST's reset only: by no step of BLOCK, whatever HOST has next, and by no other move of
HOST. -/
def Obligations.ValidBitsAreClearedByResetOnly : Prop :=
  ∀ s t : State, step s = .next t →
    ((s.status.cigValid = true → t.status.cigValid = true) ∧ (s.status.rpalValid = true → t.status.rpalValid = true) ∧
      (s.status.rbValid = true → t.status.rbValid = true) ∧ (s.status.fbValid = true → t.status.fbValid = true)) ∨
    (¬ BlockMoves s ∧ ∃ rest, s.hostOps = .reset :: rest)

/-- R26, R180, R215: after a command WARN is 1 exactly if it was a COMPOSE that succeeded with IN_LEN mod 16 not 0. -/
def Obligations.WarnMeansTruncatedCompose : Prop :=
  ∀ (s t : State) (i : Instr), exec i s = .next t →
    (t.status.warn = true ↔ i = .compose ∧ t.status.errCode = .none ∧ s.inLen.toNat % 16 ≠ 0)

/-- R74, R93: no command changes an operand of a command or anything of HOST: PENDING, the control registers, every byte of IN as
BLOCK and HOST read it, HOST's program and what it has read, and the model's own counters. -/
def Obligations.CommandsLeaveInputsAndHost : Prop :=
  ∀ (s t : State) (i : Instr), exec i s = .next t →
    t.pending = s.pending ∧ t.inLen = s.inLen ∧ t.tileIndex = s.tileIndex ∧ t.tilesPerRow = s.tilesPerRow ∧ t.scale = s.scale ∧
    t.psel = s.psel ∧ (∀ a, t.inMem.read a = s.inMem.read a ∧ t.inByte a = s.inByte a) ∧ t.hostOps = s.hostOps ∧
    t.hostReads = s.hostReads ∧ t.delay = s.delay ∧ t.draws = s.draws ∧ t.resets = s.resets

/-- R93, R22: the outputs each command writes: an output register, array or valid bit that is not in the command's row of the table
keeps its value. -/
def Obligations.CommandsWriteOnlyTheirOutputs : Prop :=
  ∀ (s t : State) (i : Instr), exec i s = .next t →
    (i ≠ .decode → t.cig = s.cig ∧ t.status.cigValid = s.status.cigValid) ∧
    (i ≠ .resolve → t.rpal = s.rpal ∧ t.status.rpalValid = s.status.rpalValid) ∧
    (i ≠ .raster → t.rb = s.rb ∧ t.rbDim = s.rbDim ∧ t.status.rbValid = s.status.rbValid) ∧
    (i ≠ .compose → t.fb = s.fb ∧ t.fbWidth = s.fbWidth ∧ t.fbHeight = s.fbHeight ∧ t.tileCount = s.tileCount ∧
      t.status.fbValid = s.status.fbValid)

/-! ## Whole-machine statements -/

/-- The invariant holds at reset. -/
def Obligations.ResetMeetsTheInvariant : Prop := Inv Config.params State.reset

/-- Every step keeps the invariant: IN in canonical form inside its store, RB and FB of the extent their size registers say and inside
their stores (R40, R64, R65, R212), and the relations among STATUS, the error registers and the outputs (R26, R36, R231). -/
def Obligations.EveryStepKeepsTheInvariant : Prop :=
  ∀ s t : State, Inv Config.params s → step s = .next t → Inv Config.params t

/-- R262: progress: from any state with BUSY = 1 and a HOST that waits, finitely many steps come to what BLOCK's step makes of the state
as it was: the command has ended, or it has read a byte of IN HOST has not written since reset, a fault of the claim (R68, I2). -/
def Obligations.PendingCommandEventuallyEnds : Prop :=
  ∀ (s : State) (rest : List HostOp), s.status.busy = true → s.hostOps = .wait :: rest →
    ∃ k : Nat, runFor k s = blockStep { s with delay := 0 } ∧
      ((∃ t, runFor k s = .next t ∧ t.status.busy = false) ∨
        (runFor k s = .fault .unwrittenInputRead ∧ ∃ i, decode s.pending = .command i ∧ ¬ InputsWritten i s))

/-- R77, R72, R100: HOST's `decode`, `resolve`, `raster` and `compose`, the CMD write and the wait, take HOST from one idle state to the
next with exactly the effect of the command on the state the CMD write left, and nothing in between is left behind; a command that reads
a byte of IN HOST has not written since reset ends the run as exec does. -/
def Obligations.CommandAndWaitIsAtomic : Prop :=
  ∀ (s : State) (i : Instr) (rest : List HostOp), s.status.busy = false → s.hostOps = HostOp.command i ++ rest →
    ∃ k d : Nat,
      let u : State :=
        { s with
          pending := encode i
          status := { s.status with busy := true, done := false }
          hostOps := rest
          delay := 0
          draws := d }
      (∃ t, exec i u = .next t ∧ runFor k s = .next t ∧ t.status.busy = false ∧ t.hostOps = rest) ∨
      (exec i u = .fault .unwrittenInputRead ∧ runFor k s = .fault .unwrittenInputRead ∧ ¬ InputsWritten i s)

/-- R232 to R234, R260: a HOST that waits for every command it starts is never refused, and goes on so after every step. -/
def Obligations.WaitingHostIsNeverRefused : Prop :=
  ∀ (k : Nat) (s : State), Disciplined s →
    NotRefused (runFor k s) ∧ ∀ t, runFor k s = .next t → Disciplined t
end

