-- ==== Sys2Proof/Laws/State.lean ====
section
/-!
SUPPORT. One lemma per field per update of State, and per flag per update of STATUS, true by rfl: no later proof unfolds one.
-/

namespace Sys2Proof.Machine

variable (s : State) (st : Status)

@[simp] theorem State.raiseFault_pending (code : ErrCode) (req avail : Word) : (s.raiseFault code req avail).pending = s.pending := rfl
@[simp] theorem State.raiseFault_status (code : ErrCode) (req avail : Word) : (s.raiseFault code req avail).status = s.status.afterFault code := rfl
@[simp] theorem State.raiseFault_inLen (code : ErrCode) (req avail : Word) : (s.raiseFault code req avail).inLen = s.inLen := rfl
@[simp] theorem State.raiseFault_tileIndex (code : ErrCode) (req avail : Word) : (s.raiseFault code req avail).tileIndex = s.tileIndex := rfl
@[simp] theorem State.raiseFault_tilesPerRow (code : ErrCode) (req avail : Word) : (s.raiseFault code req avail).tilesPerRow = s.tilesPerRow := rfl
@[simp] theorem State.raiseFault_scale (code : ErrCode) (req avail : Word) : (s.raiseFault code req avail).scale = s.scale := rfl
@[simp] theorem State.raiseFault_psel (code : ErrCode) (req avail : Word) : (s.raiseFault code req avail).psel = s.psel := rfl
@[simp] theorem State.raiseFault_rpal (code : ErrCode) (req avail : Word) : (s.raiseFault code req avail).rpal = s.rpal := rfl
@[simp] theorem State.raiseFault_rbDim (code : ErrCode) (req avail : Word) : (s.raiseFault code req avail).rbDim = s.rbDim := rfl
@[simp] theorem State.raiseFault_fbWidth (code : ErrCode) (req avail : Word) : (s.raiseFault code req avail).fbWidth = s.fbWidth := rfl
@[simp] theorem State.raiseFault_fbHeight (code : ErrCode) (req avail : Word) : (s.raiseFault code req avail).fbHeight = s.fbHeight := rfl
@[simp] theorem State.raiseFault_tileCount (code : ErrCode) (req avail : Word) : (s.raiseFault code req avail).tileCount = s.tileCount := rfl
@[simp] theorem State.raiseFault_errReq (code : ErrCode) (req avail : Word) : (s.raiseFault code req avail).errReq = req := rfl
@[simp] theorem State.raiseFault_errAvail (code : ErrCode) (req avail : Word) : (s.raiseFault code req avail).errAvail = avail := rfl
@[simp] theorem State.raiseFault_inMem (code : ErrCode) (req avail : Word) : (s.raiseFault code req avail).inMem = s.inMem := rfl
@[simp] theorem State.raiseFault_cig (code : ErrCode) (req avail : Word) : (s.raiseFault code req avail).cig = s.cig := rfl
@[simp] theorem State.raiseFault_rb (code : ErrCode) (req avail : Word) : (s.raiseFault code req avail).rb = s.rb := rfl
@[simp] theorem State.raiseFault_fb (code : ErrCode) (req avail : Word) : (s.raiseFault code req avail).fb = s.fb := rfl
@[simp] theorem State.raiseFault_hostOps (code : ErrCode) (req avail : Word) : (s.raiseFault code req avail).hostOps = s.hostOps := rfl
@[simp] theorem State.raiseFault_hostReads (code : ErrCode) (req avail : Word) : (s.raiseFault code req avail).hostReads = s.hostReads := rfl
@[simp] theorem State.raiseFault_delay (code : ErrCode) (req avail : Word) : (s.raiseFault code req avail).delay = s.delay := rfl
@[simp] theorem State.raiseFault_draws (code : ErrCode) (req avail : Word) : (s.raiseFault code req avail).draws = s.draws := rfl
@[simp] theorem State.raiseFault_resets (code : ErrCode) (req avail : Word) : (s.raiseFault code req avail).resets = s.resets := rfl

@[simp] theorem State.completeSuccess_pending (warn : Bool) : (s.completeSuccess warn).pending = s.pending := rfl
@[simp] theorem State.completeSuccess_status (warn : Bool) : (s.completeSuccess warn).status = s.status.afterSuccess warn := rfl
@[simp] theorem State.completeSuccess_inLen (warn : Bool) : (s.completeSuccess warn).inLen = s.inLen := rfl
@[simp] theorem State.completeSuccess_tileIndex (warn : Bool) : (s.completeSuccess warn).tileIndex = s.tileIndex := rfl
@[simp] theorem State.completeSuccess_tilesPerRow (warn : Bool) : (s.completeSuccess warn).tilesPerRow = s.tilesPerRow := rfl
@[simp] theorem State.completeSuccess_scale (warn : Bool) : (s.completeSuccess warn).scale = s.scale := rfl
@[simp] theorem State.completeSuccess_psel (warn : Bool) : (s.completeSuccess warn).psel = s.psel := rfl
@[simp] theorem State.completeSuccess_rpal (warn : Bool) : (s.completeSuccess warn).rpal = s.rpal := rfl
@[simp] theorem State.completeSuccess_rbDim (warn : Bool) : (s.completeSuccess warn).rbDim = s.rbDim := rfl
@[simp] theorem State.completeSuccess_fbWidth (warn : Bool) : (s.completeSuccess warn).fbWidth = s.fbWidth := rfl
@[simp] theorem State.completeSuccess_fbHeight (warn : Bool) : (s.completeSuccess warn).fbHeight = s.fbHeight := rfl
@[simp] theorem State.completeSuccess_tileCount (warn : Bool) : (s.completeSuccess warn).tileCount = s.tileCount := rfl
@[simp] theorem State.completeSuccess_errReq (warn : Bool) : (s.completeSuccess warn).errReq = 0 := rfl
@[simp] theorem State.completeSuccess_errAvail (warn : Bool) : (s.completeSuccess warn).errAvail = 0 := rfl
@[simp] theorem State.completeSuccess_inMem (warn : Bool) : (s.completeSuccess warn).inMem = s.inMem := rfl
@[simp] theorem State.completeSuccess_cig (warn : Bool) : (s.completeSuccess warn).cig = s.cig := rfl
@[simp] theorem State.completeSuccess_rb (warn : Bool) : (s.completeSuccess warn).rb = s.rb := rfl
@[simp] theorem State.completeSuccess_fb (warn : Bool) : (s.completeSuccess warn).fb = s.fb := rfl
@[simp] theorem State.completeSuccess_hostOps (warn : Bool) : (s.completeSuccess warn).hostOps = s.hostOps := rfl
@[simp] theorem State.completeSuccess_hostReads (warn : Bool) : (s.completeSuccess warn).hostReads = s.hostReads := rfl
@[simp] theorem State.completeSuccess_delay (warn : Bool) : (s.completeSuccess warn).delay = s.delay := rfl
@[simp] theorem State.completeSuccess_draws (warn : Bool) : (s.completeSuccess warn).draws = s.draws := rfl
@[simp] theorem State.completeSuccess_resets (warn : Bool) : (s.completeSuccess warn).resets = s.resets := rfl

@[simp] theorem State.startCommand_pending (w : Word) : (s.startCommand w).pending = w := rfl
@[simp] theorem State.startCommand_status (w : Word) : (s.startCommand w).status = s.status.started := rfl
@[simp] theorem State.startCommand_inLen (w : Word) : (s.startCommand w).inLen = s.inLen := rfl
@[simp] theorem State.startCommand_tileIndex (w : Word) : (s.startCommand w).tileIndex = s.tileIndex := rfl
@[simp] theorem State.startCommand_tilesPerRow (w : Word) : (s.startCommand w).tilesPerRow = s.tilesPerRow := rfl
@[simp] theorem State.startCommand_scale (w : Word) : (s.startCommand w).scale = s.scale := rfl
@[simp] theorem State.startCommand_psel (w : Word) : (s.startCommand w).psel = s.psel := rfl
@[simp] theorem State.startCommand_rpal (w : Word) : (s.startCommand w).rpal = s.rpal := rfl
@[simp] theorem State.startCommand_rbDim (w : Word) : (s.startCommand w).rbDim = s.rbDim := rfl
@[simp] theorem State.startCommand_fbWidth (w : Word) : (s.startCommand w).fbWidth = s.fbWidth := rfl
@[simp] theorem State.startCommand_fbHeight (w : Word) : (s.startCommand w).fbHeight = s.fbHeight := rfl
@[simp] theorem State.startCommand_tileCount (w : Word) : (s.startCommand w).tileCount = s.tileCount := rfl
@[simp] theorem State.startCommand_errReq (w : Word) : (s.startCommand w).errReq = s.errReq := rfl
@[simp] theorem State.startCommand_errAvail (w : Word) : (s.startCommand w).errAvail = s.errAvail := rfl
@[simp] theorem State.startCommand_inMem (w : Word) : (s.startCommand w).inMem = s.inMem := rfl
@[simp] theorem State.startCommand_cig (w : Word) : (s.startCommand w).cig = s.cig := rfl
@[simp] theorem State.startCommand_rb (w : Word) : (s.startCommand w).rb = s.rb := rfl
@[simp] theorem State.startCommand_fb (w : Word) : (s.startCommand w).fb = s.fb := rfl
@[simp] theorem State.startCommand_hostOps (w : Word) : (s.startCommand w).hostOps = s.hostOps := rfl
@[simp] theorem State.startCommand_hostReads (w : Word) : (s.startCommand w).hostReads = s.hostReads := rfl
@[simp] theorem State.startCommand_delay (w : Word) : (s.startCommand w).delay = Config.blockDelay s.draws := rfl
@[simp] theorem State.startCommand_draws (w : Word) : (s.startCommand w).draws = s.draws + 1 := rfl
@[simp] theorem State.startCommand_resets (w : Word) : (s.startCommand w).resets = s.resets := rfl

@[simp] theorem State.setCig_pending (g : Grid) : (s.setCig g).pending = s.pending := rfl
@[simp] theorem State.setCig_status (g : Grid) : (s.setCig g).status = { s.status with cigValid := true } := rfl
@[simp] theorem State.setCig_inLen (g : Grid) : (s.setCig g).inLen = s.inLen := rfl
@[simp] theorem State.setCig_tileIndex (g : Grid) : (s.setCig g).tileIndex = s.tileIndex := rfl
@[simp] theorem State.setCig_tilesPerRow (g : Grid) : (s.setCig g).tilesPerRow = s.tilesPerRow := rfl
@[simp] theorem State.setCig_scale (g : Grid) : (s.setCig g).scale = s.scale := rfl
@[simp] theorem State.setCig_psel (g : Grid) : (s.setCig g).psel = s.psel := rfl
@[simp] theorem State.setCig_rpal (g : Grid) : (s.setCig g).rpal = s.rpal := rfl
@[simp] theorem State.setCig_rbDim (g : Grid) : (s.setCig g).rbDim = s.rbDim := rfl
@[simp] theorem State.setCig_fbWidth (g : Grid) : (s.setCig g).fbWidth = s.fbWidth := rfl
@[simp] theorem State.setCig_fbHeight (g : Grid) : (s.setCig g).fbHeight = s.fbHeight := rfl
@[simp] theorem State.setCig_tileCount (g : Grid) : (s.setCig g).tileCount = s.tileCount := rfl
@[simp] theorem State.setCig_errReq (g : Grid) : (s.setCig g).errReq = s.errReq := rfl
@[simp] theorem State.setCig_errAvail (g : Grid) : (s.setCig g).errAvail = s.errAvail := rfl
@[simp] theorem State.setCig_inMem (g : Grid) : (s.setCig g).inMem = s.inMem := rfl
@[simp] theorem State.setCig_cig (g : Grid) : (s.setCig g).cig = g := rfl
@[simp] theorem State.setCig_rb (g : Grid) : (s.setCig g).rb = s.rb := rfl
@[simp] theorem State.setCig_fb (g : Grid) : (s.setCig g).fb = s.fb := rfl
@[simp] theorem State.setCig_hostOps (g : Grid) : (s.setCig g).hostOps = s.hostOps := rfl
@[simp] theorem State.setCig_hostReads (g : Grid) : (s.setCig g).hostReads = s.hostReads := rfl
@[simp] theorem State.setCig_delay (g : Grid) : (s.setCig g).delay = s.delay := rfl
@[simp] theorem State.setCig_draws (g : Grid) : (s.setCig g).draws = s.draws := rfl
@[simp] theorem State.setCig_resets (g : Grid) : (s.setCig g).resets = s.resets := rfl

@[simp] theorem State.setRpal_pending (rp : Palette) : (s.setRpal rp).pending = s.pending := rfl
@[simp] theorem State.setRpal_status (rp : Palette) : (s.setRpal rp).status = { s.status with rpalValid := true } := rfl
@[simp] theorem State.setRpal_inLen (rp : Palette) : (s.setRpal rp).inLen = s.inLen := rfl
@[simp] theorem State.setRpal_tileIndex (rp : Palette) : (s.setRpal rp).tileIndex = s.tileIndex := rfl
@[simp] theorem State.setRpal_tilesPerRow (rp : Palette) : (s.setRpal rp).tilesPerRow = s.tilesPerRow := rfl
@[simp] theorem State.setRpal_scale (rp : Palette) : (s.setRpal rp).scale = s.scale := rfl
@[simp] theorem State.setRpal_psel (rp : Palette) : (s.setRpal rp).psel = s.psel := rfl
@[simp] theorem State.setRpal_rpal (rp : Palette) : (s.setRpal rp).rpal = rp := rfl
@[simp] theorem State.setRpal_rbDim (rp : Palette) : (s.setRpal rp).rbDim = s.rbDim := rfl
@[simp] theorem State.setRpal_fbWidth (rp : Palette) : (s.setRpal rp).fbWidth = s.fbWidth := rfl
@[simp] theorem State.setRpal_fbHeight (rp : Palette) : (s.setRpal rp).fbHeight = s.fbHeight := rfl
@[simp] theorem State.setRpal_tileCount (rp : Palette) : (s.setRpal rp).tileCount = s.tileCount := rfl
@[simp] theorem State.setRpal_errReq (rp : Palette) : (s.setRpal rp).errReq = s.errReq := rfl
@[simp] theorem State.setRpal_errAvail (rp : Palette) : (s.setRpal rp).errAvail = s.errAvail := rfl
@[simp] theorem State.setRpal_inMem (rp : Palette) : (s.setRpal rp).inMem = s.inMem := rfl
@[simp] theorem State.setRpal_cig (rp : Palette) : (s.setRpal rp).cig = s.cig := rfl
@[simp] theorem State.setRpal_rb (rp : Palette) : (s.setRpal rp).rb = s.rb := rfl
@[simp] theorem State.setRpal_fb (rp : Palette) : (s.setRpal rp).fb = s.fb := rfl
@[simp] theorem State.setRpal_hostOps (rp : Palette) : (s.setRpal rp).hostOps = s.hostOps := rfl
@[simp] theorem State.setRpal_hostReads (rp : Palette) : (s.setRpal rp).hostReads = s.hostReads := rfl
@[simp] theorem State.setRpal_delay (rp : Palette) : (s.setRpal rp).delay = s.delay := rfl
@[simp] theorem State.setRpal_draws (rp : Palette) : (s.setRpal rp).draws = s.draws := rfl
@[simp] theorem State.setRpal_resets (rp : Palette) : (s.setRpal rp).resets = s.resets := rfl

@[simp] theorem State.setRb_pending (d : Nat) (b : Pixels) : (s.setRb d b).pending = s.pending := rfl
@[simp] theorem State.setRb_status (d : Nat) (b : Pixels) : (s.setRb d b).status = { s.status with rbValid := true } := rfl
@[simp] theorem State.setRb_inLen (d : Nat) (b : Pixels) : (s.setRb d b).inLen = s.inLen := rfl
@[simp] theorem State.setRb_tileIndex (d : Nat) (b : Pixels) : (s.setRb d b).tileIndex = s.tileIndex := rfl
@[simp] theorem State.setRb_tilesPerRow (d : Nat) (b : Pixels) : (s.setRb d b).tilesPerRow = s.tilesPerRow := rfl
@[simp] theorem State.setRb_scale (d : Nat) (b : Pixels) : (s.setRb d b).scale = s.scale := rfl
@[simp] theorem State.setRb_psel (d : Nat) (b : Pixels) : (s.setRb d b).psel = s.psel := rfl
@[simp] theorem State.setRb_rpal (d : Nat) (b : Pixels) : (s.setRb d b).rpal = s.rpal := rfl
@[simp] theorem State.setRb_rbDim (d : Nat) (b : Pixels) : (s.setRb d b).rbDim = BitVec.ofNat 32 d := rfl
@[simp] theorem State.setRb_fbWidth (d : Nat) (b : Pixels) : (s.setRb d b).fbWidth = s.fbWidth := rfl
@[simp] theorem State.setRb_fbHeight (d : Nat) (b : Pixels) : (s.setRb d b).fbHeight = s.fbHeight := rfl
@[simp] theorem State.setRb_tileCount (d : Nat) (b : Pixels) : (s.setRb d b).tileCount = s.tileCount := rfl
@[simp] theorem State.setRb_errReq (d : Nat) (b : Pixels) : (s.setRb d b).errReq = s.errReq := rfl
@[simp] theorem State.setRb_errAvail (d : Nat) (b : Pixels) : (s.setRb d b).errAvail = s.errAvail := rfl
@[simp] theorem State.setRb_inMem (d : Nat) (b : Pixels) : (s.setRb d b).inMem = s.inMem := rfl
@[simp] theorem State.setRb_cig (d : Nat) (b : Pixels) : (s.setRb d b).cig = s.cig := rfl
@[simp] theorem State.setRb_rb (d : Nat) (b : Pixels) : (s.setRb d b).rb = b := rfl
@[simp] theorem State.setRb_fb (d : Nat) (b : Pixels) : (s.setRb d b).fb = s.fb := rfl
@[simp] theorem State.setRb_hostOps (d : Nat) (b : Pixels) : (s.setRb d b).hostOps = s.hostOps := rfl
@[simp] theorem State.setRb_hostReads (d : Nat) (b : Pixels) : (s.setRb d b).hostReads = s.hostReads := rfl
@[simp] theorem State.setRb_delay (d : Nat) (b : Pixels) : (s.setRb d b).delay = s.delay := rfl
@[simp] theorem State.setRb_draws (d : Nat) (b : Pixels) : (s.setRb d b).draws = s.draws := rfl
@[simp] theorem State.setRb_resets (d : Nat) (b : Pixels) : (s.setRb d b).resets = s.resets := rfl

@[simp] theorem State.setFb_pending (w h n : Nat) (b : Pixels) : (s.setFb w h n b).pending = s.pending := rfl
@[simp] theorem State.setFb_status (w h n : Nat) (b : Pixels) : (s.setFb w h n b).status = { s.status with fbValid := true } := rfl
@[simp] theorem State.setFb_inLen (w h n : Nat) (b : Pixels) : (s.setFb w h n b).inLen = s.inLen := rfl
@[simp] theorem State.setFb_tileIndex (w h n : Nat) (b : Pixels) : (s.setFb w h n b).tileIndex = s.tileIndex := rfl
@[simp] theorem State.setFb_tilesPerRow (w h n : Nat) (b : Pixels) : (s.setFb w h n b).tilesPerRow = s.tilesPerRow := rfl
@[simp] theorem State.setFb_scale (w h n : Nat) (b : Pixels) : (s.setFb w h n b).scale = s.scale := rfl
@[simp] theorem State.setFb_psel (w h n : Nat) (b : Pixels) : (s.setFb w h n b).psel = s.psel := rfl
@[simp] theorem State.setFb_rpal (w h n : Nat) (b : Pixels) : (s.setFb w h n b).rpal = s.rpal := rfl
@[simp] theorem State.setFb_rbDim (w h n : Nat) (b : Pixels) : (s.setFb w h n b).rbDim = s.rbDim := rfl
@[simp] theorem State.setFb_fbWidth (w h n : Nat) (b : Pixels) : (s.setFb w h n b).fbWidth = BitVec.ofNat 32 w := rfl
@[simp] theorem State.setFb_fbHeight (w h n : Nat) (b : Pixels) : (s.setFb w h n b).fbHeight = BitVec.ofNat 32 h := rfl
@[simp] theorem State.setFb_tileCount (w h n : Nat) (b : Pixels) : (s.setFb w h n b).tileCount = BitVec.ofNat 32 n := rfl
@[simp] theorem State.setFb_errReq (w h n : Nat) (b : Pixels) : (s.setFb w h n b).errReq = s.errReq := rfl
@[simp] theorem State.setFb_errAvail (w h n : Nat) (b : Pixels) : (s.setFb w h n b).errAvail = s.errAvail := rfl
@[simp] theorem State.setFb_inMem (w h n : Nat) (b : Pixels) : (s.setFb w h n b).inMem = s.inMem := rfl
@[simp] theorem State.setFb_cig (w h n : Nat) (b : Pixels) : (s.setFb w h n b).cig = s.cig := rfl
@[simp] theorem State.setFb_rb (w h n : Nat) (b : Pixels) : (s.setFb w h n b).rb = s.rb := rfl
@[simp] theorem State.setFb_fb (w h n : Nat) (b : Pixels) : (s.setFb w h n b).fb = b := rfl
@[simp] theorem State.setFb_hostOps (w h n : Nat) (b : Pixels) : (s.setFb w h n b).hostOps = s.hostOps := rfl
@[simp] theorem State.setFb_hostReads (w h n : Nat) (b : Pixels) : (s.setFb w h n b).hostReads = s.hostReads := rfl
@[simp] theorem State.setFb_delay (w h n : Nat) (b : Pixels) : (s.setFb w h n b).delay = s.delay := rfl
@[simp] theorem State.setFb_draws (w h n : Nat) (b : Pixels) : (s.setFb w h n b).draws = s.draws := rfl
@[simp] theorem State.setFb_resets (w h n : Nat) (b : Pixels) : (s.setFb w h n b).resets = s.resets := rfl

@[simp] theorem State.assertReset_pending : s.assertReset.pending = State.reset.pending := rfl
@[simp] theorem State.assertReset_status : s.assertReset.status = State.reset.status := rfl
@[simp] theorem State.assertReset_inLen : s.assertReset.inLen = State.reset.inLen := rfl
@[simp] theorem State.assertReset_tileIndex : s.assertReset.tileIndex = State.reset.tileIndex := rfl
@[simp] theorem State.assertReset_tilesPerRow : s.assertReset.tilesPerRow = State.reset.tilesPerRow := rfl
@[simp] theorem State.assertReset_scale : s.assertReset.scale = State.reset.scale := rfl
@[simp] theorem State.assertReset_psel : s.assertReset.psel = State.reset.psel := rfl
@[simp] theorem State.assertReset_rpal : s.assertReset.rpal = State.reset.rpal := rfl
@[simp] theorem State.assertReset_rbDim : s.assertReset.rbDim = State.reset.rbDim := rfl
@[simp] theorem State.assertReset_fbWidth : s.assertReset.fbWidth = State.reset.fbWidth := rfl
@[simp] theorem State.assertReset_fbHeight : s.assertReset.fbHeight = State.reset.fbHeight := rfl
@[simp] theorem State.assertReset_tileCount : s.assertReset.tileCount = State.reset.tileCount := rfl
@[simp] theorem State.assertReset_errReq : s.assertReset.errReq = State.reset.errReq := rfl
@[simp] theorem State.assertReset_errAvail : s.assertReset.errAvail = State.reset.errAvail := rfl
@[simp] theorem State.assertReset_inMem : s.assertReset.inMem = State.reset.inMem := rfl
@[simp] theorem State.assertReset_cig : s.assertReset.cig = State.reset.cig := rfl
@[simp] theorem State.assertReset_rb : s.assertReset.rb = State.reset.rb := rfl
@[simp] theorem State.assertReset_fb : s.assertReset.fb = State.reset.fb := rfl
@[simp] theorem State.assertReset_hostOps : s.assertReset.hostOps = s.hostOps := rfl
@[simp] theorem State.assertReset_hostReads : s.assertReset.hostReads = s.hostReads := rfl
@[simp] theorem State.assertReset_delay : s.assertReset.delay = State.reset.delay := rfl
@[simp] theorem State.assertReset_draws : s.assertReset.draws = s.draws := rfl
@[simp] theorem State.assertReset_resets : s.assertReset.resets = s.resets + 1 := rfl

@[simp] theorem Status.started_busy : st.started.busy = true := rfl
@[simp] theorem Status.started_done : st.started.done = false := rfl
@[simp] theorem Status.started_faulted : st.started.faulted = st.faulted := rfl
@[simp] theorem Status.started_warn : st.started.warn = st.warn := rfl
@[simp] theorem Status.started_cigValid : st.started.cigValid = st.cigValid := rfl
@[simp] theorem Status.started_rpalValid : st.started.rpalValid = st.rpalValid := rfl
@[simp] theorem Status.started_rbValid : st.started.rbValid = st.rbValid := rfl
@[simp] theorem Status.started_fbValid : st.started.fbValid = st.fbValid := rfl
@[simp] theorem Status.started_errCode : st.started.errCode = st.errCode := rfl

@[simp] theorem Status.afterFault_busy (code : ErrCode) : (st.afterFault code).busy = false := rfl
@[simp] theorem Status.afterFault_done (code : ErrCode) : (st.afterFault code).done = false := rfl
@[simp] theorem Status.afterFault_faulted (code : ErrCode) : (st.afterFault code).faulted = true := rfl
@[simp] theorem Status.afterFault_warn (code : ErrCode) : (st.afterFault code).warn = false := rfl
@[simp] theorem Status.afterFault_cigValid (code : ErrCode) : (st.afterFault code).cigValid = st.cigValid := rfl
@[simp] theorem Status.afterFault_rpalValid (code : ErrCode) : (st.afterFault code).rpalValid = st.rpalValid := rfl
@[simp] theorem Status.afterFault_rbValid (code : ErrCode) : (st.afterFault code).rbValid = st.rbValid := rfl
@[simp] theorem Status.afterFault_fbValid (code : ErrCode) : (st.afterFault code).fbValid = st.fbValid := rfl
@[simp] theorem Status.afterFault_errCode (code : ErrCode) : (st.afterFault code).errCode = code := rfl

@[simp] theorem Status.afterSuccess_busy (warn : Bool) : (st.afterSuccess warn).busy = false := rfl
@[simp] theorem Status.afterSuccess_done (warn : Bool) : (st.afterSuccess warn).done = true := rfl
@[simp] theorem Status.afterSuccess_faulted (warn : Bool) : (st.afterSuccess warn).faulted = st.faulted := rfl
@[simp] theorem Status.afterSuccess_warn (warn : Bool) : (st.afterSuccess warn).warn = warn := rfl
@[simp] theorem Status.afterSuccess_cigValid (warn : Bool) : (st.afterSuccess warn).cigValid = st.cigValid := rfl
@[simp] theorem Status.afterSuccess_rpalValid (warn : Bool) : (st.afterSuccess warn).rpalValid = st.rpalValid := rfl
@[simp] theorem Status.afterSuccess_rbValid (warn : Bool) : (st.afterSuccess warn).rbValid = st.rbValid := rfl
@[simp] theorem Status.afterSuccess_fbValid (warn : Bool) : (st.afterSuccess warn).fbValid = st.fbValid := rfl
@[simp] theorem Status.afterSuccess_errCode (warn : Bool) : (st.afterSuccess warn).errCode = .none := rfl

end Sys2Proof.Machine
end

