-- ==== Sys2Proof/Laws/Memory.lean ====
section
/-!
SUPPORT. The laws of IN: reading after writing, and that every memory operation keeps the canonical form (20_memory.md R66).
-/

namespace Sys2Proof.Machine

theorem Memory.read_write_self (m : Memory) (a : Nat) (v : Byte) : (m.write a v).read a = some v := by
  induction m with
  | nil => simp [Memory.write, Memory.read]
  | cons c m ih =>
    unfold Memory.write
    split_ifs with hlt heq
    · simp [Memory.read]
    · simp [Memory.read]
    · have : c.1 ≠ a := fun h => heq h.symm
      simp [Memory.read, this, ih]

theorem Memory.read_write_other (m : Memory) (a b : Nat) (v : Byte) (h : b ≠ a) : (m.write a v).read b = m.read b := by
  induction m with
  | nil => simp [Memory.write, Memory.read, h.symm]
  | cons c m ih =>
    unfold Memory.write
    split_ifs with hlt heq
    · simp [Memory.read, h.symm]
    · subst heq
      simp [Memory.read, h.symm]
    · simp [Memory.read, ih]

/-- A written memory lists the written address and addresses it listed before. -/
theorem Memory.mem_write {m : Memory} {a : Nat} {v : Byte} {c : Host.Cell} (h : c ∈ m.write a v) : c = (a, v) ∨ c ∈ m := by
  induction m with
  | nil => simpa [Memory.write] using h
  | cons d m ih =>
    unfold Memory.write at h
    split_ifs at h with hlt heq
    · simpa using h
    · rcases List.mem_cons.mp h with h | h
      · exact .inl h
      · exact .inr (List.mem_cons_of_mem d h)
    · rcases List.mem_cons.mp h with h | h
      · exact .inr (h ▸ List.mem_cons_self)
      · exact (ih h).imp_right (List.mem_cons_of_mem d)

theorem Memory.wf_cons {c : Host.Cell} {m : Memory} :
    Memory.wf (c :: m) = true ↔ (∀ d ∈ m, c.1 < d.1) ∧ Memory.wf m = true := by
  simp [Memory.wf]

theorem Memory.wf_write {m : Memory} (a : Nat) (v : Byte) (h : m.wf = true) : (m.write a v).wf = true := by
  induction m with
  | nil => simp [Memory.write, Memory.wf]
  | cons c m ih =>
    obtain ⟨hc, hm⟩ := Memory.wf_cons.mp h
    unfold Memory.write
    split_ifs with hlt heq
    · refine Memory.wf_cons.mpr ⟨fun d hd => ?_, h⟩
      rcases List.mem_cons.mp hd with rfl | hd
      · exact hlt
      · exact hlt.trans (hc d hd)
    · exact Memory.wf_cons.mpr ⟨fun d hd => heq ▸ hc d hd, hm⟩
    · refine Memory.wf_cons.mpr ⟨fun d hd => ?_, ih hm⟩
      rcases Memory.mem_write hd with rfl | hd
      · show c.1 < a
        omega
      · exact hc d hd

theorem Memory.wf_reset : State.reset.inMem.wf = true := rfl

/-- A byte HOST wrote is what BLOCK reads (R66). -/
theorem State.inByte_of_written {s : State} {a : Nat} {v : Byte} (h : s.inMem.read a = some v) : s.inByte a = v := by
  simp [State.inByte, h]

/-- BLOCK's reads depend only on what IN holds and on the reset epoch. -/
theorem State.inByte_congr {s t : State} (a : Nat) (hm : t.inMem.read a = s.inMem.read a) (hr : t.resets = s.resets) :
    t.inByte a = s.inByte a := by
  simp [State.inByte, hm, hr]

theorem State.written_iff {s : State} {a n : Nat} :
    s.written a n = true ↔ ∀ k, k < n → (s.inMem.read (a + k)).isSome = true := by
  simp [State.written]

/-- What reading bytes of IN can come to: the command's own state, the bytes written or the command in its fault completion, or the fault
of the claim (R68, I2). -/
theorem State.afterReading_cases (s : State) (a n : Nat) (t : State) :
    ((s.written a n = true ∨ t.status.errCode ≠ .none) ∧ s.afterReading a n t = .next t) ∨
      (¬ s.written a n = true ∧ t.status.errCode = .none ∧ s.afterReading a n t = .fault .unwrittenInputRead) := by
  unfold State.afterReading
  split_ifs with h1 h2
  · exact .inl ⟨.inl h1, rfl⟩
  · exact .inr ⟨h1, h2, rfl⟩
  · exact .inl ⟨.inr h2, rfl⟩

/-- Two canonical memories that list the same bytes are the same data. -/
theorem Memory.eq_of_read {m n : Memory} (hm : m.wf = true) (hn : n.wf = true) (h : ∀ a, m.read a = n.read a) : m = n := by
  induction m generalizing n with
  | nil =>
    cases n with
    | nil => rfl
    | cons d n => have := h d.1; simp [Memory.read] at this
  | cons c m ih =>
    obtain ⟨hc, hm⟩ := Memory.wf_cons.mp hm
    cases n with
    | nil => have := h c.1; simp [Memory.read] at this
    | cons d n =>
      obtain ⟨hd, hn⟩ := Memory.wf_cons.mp hn
      have none_below : ∀ (l : Memory) (k : Nat), (∀ e ∈ l, k < e.1) → l.read k = none := by
        intro l k hl
        induction l with
        | nil => rfl
        | cons e l ihl =>
          have := hl e List.mem_cons_self
          simp only [Memory.read]
          rw [if_neg (by omega), ihl fun f hf => hl f (List.mem_cons_of_mem e hf)]
      have hkey : c.1 = d.1 := by
        rcases Nat.lt_trichotomy c.1 d.1 with hlt | heq | hgt
        · have := h c.1
          rw [none_below (d :: n) c.1 (by
            intro e he
            rcases List.mem_cons.mp he with rfl | he
            · exact hlt
            · exact hlt.trans (hd e he))] at this
          simp [Memory.read] at this
        · exact heq
        · have := h d.1
          rw [none_below (c :: m) d.1 (by
            intro e he
            rcases List.mem_cons.mp he with rfl | he
            · exact hgt
            · exact hgt.trans (hc e he))] at this
          simp [Memory.read] at this
      have hval : c.2 = d.2 := by have := h c.1; simpa [Memory.read, hkey] using this
      have htail : m = n := ih hm hn fun a => by
        by_cases ha : a = c.1
        · rw [ha, none_below m c.1 hc, none_below n c.1 (hkey ▸ hd)]
        · have := h a
          simp only [Memory.read] at this
          rwa [if_neg (fun e => ha e.symm), if_neg (fun e => ha (e.symm.trans hkey.symm))] at this
      rw [Prod.ext hkey hval, htail]

end Sys2Proof.Machine
end

