-- ==== Sys2Proof/Laws/Raster.lean ====
section
/-!
SUPPORT. The laws of grids, palettes and pixel stores: what each element of a built grid, palette or raster is, and what pasting a
block or a list of tiles does to every pixel (41_palette_resolver.md R140, 42_tile_rasterizer.md R161, 43_sheet_compositor.md R185, R188).
-/

namespace Sys2Proof.Machine

theorem cell_gridOf (f : Nat → Nat → BitVec 2) {y x : Nat} (hy : y < 8) (hx : x < 8) : cell (gridOf f) y x = f y x := by
  simp [cell, gridOf, Nat.mod_eq_of_lt hy, Nat.mod_eq_of_lt hx]

theorem cell_decodeTile (s : State) (i : Nat) {y x : Nat} (hy : y < 8) (hx : x < 8) :
    cell (decodeTile s i) y x = colourIndex (hiByte s i y) (loByte s i y) x := cell_gridOf _ hy hx

theorem colourIndex_toNat (hi lo : Byte) (x : Nat) :
    (colourIndex hi lo x).toNat = 2 * (hi.getLsbD (7 - x)).toNat + (lo.getLsbD (7 - x)).toNat := by
  unfold colourIndex
  cases hi.getLsbD (7 - x) <;> cases lo.getLsbD (7 - x) <;> rfl

theorem resolve_get (p : Params) (psel : Vector Word 4) (n : Fin 4) : (resolve p psel)[n] = lookup p psel[n] := by
  fin_cases n <;> rfl

theorem tableIndex_eq (w : Word) : tableIndex w = BitVec.ofNat 6 (w.toNat % 64) := by
  apply BitVec.eq_of_toNat_eq
  simp [tableIndex]

theorem mux_eq_get (c : BitVec 2) (rp : Palette) : mux c rp = rp[(⟨c.toNat, c.isLt⟩ : Fin 4)] := rfl

@[simp] theorem pixelsOf_length (h w : Nat) (f : Nat → Nat → Colour) : (pixelsOf h w f).length = h * w := by
  simp [pixelsOf]

/-- A position `y * w + x` of a raster names row `y` and column `x`. -/
theorem rowCol_div {w y x : Nat} (hx : x < w) : (y * w + x) / w = y := by
  rw [Nat.add_comm, Nat.add_mul_div_right _ _ (by omega), Nat.div_eq_of_lt hx, Nat.zero_add]

theorem rowCol_mod {w y x : Nat} (hx : x < w) : (y * w + x) % w = x := by
  rw [Nat.add_comm, Nat.add_mul_mod_self_right, Nat.mod_eq_of_lt hx]

theorem rowCol_lt {h w y x : Nat} (hy : y < h) (hx : x < w) : y * w + x < h * w :=
  calc y * w + x < y * w + w := by omega
    _ = (y + 1) * w := by ring
    _ ≤ h * w := Nat.mul_le_mul_right w hy

/-- Within columns `0 .. w - 1`, a position names one row and one column. -/
theorem rowCol_inj {w y x y' x' : Nat} (hx : x < w) (hx' : x' < w) (h : y * w + x = y' * w + x') : y = y' ∧ x = x' := by
  have hy := congrArg (· / w) h
  have hc := congrArg (· % w) h
  simp only [rowCol_div hx, rowCol_div hx', rowCol_mod hx, rowCol_mod hx'] at hy hc
  exact ⟨hy, hc⟩

theorem pixelsOf_get {h w : Nat} (f : Nat → Nat → Colour) {y x : Nat} (hy : y < h) (hx : x < w) :
    (pixelsOf h w f)[y * w + x]? = some (f y x) := by
  simp [pixelsOf, rowCol_lt hy hx, rowCol_div hx, rowCol_mod hx]

theorem mem_pixelsOf {h w : Nat} {f : Nat → Nat → Colour} {c : Colour} (hc : c ∈ pixelsOf h w f) : ∃ y x, c = f y x := by
  obtain ⟨i, -, rfl⟩ := List.mem_map.mp hc
  exact ⟨_, _, rfl⟩

/-- A loop of writes: if one pass writes at a position of its own, the whole loop writes at each of the positions, and nowhere else. -/
theorem forRange_get (n : Nat) (body : Nat → Pixels → Pixels) (hits : Nat → Nat → Prop) (value : Nat → Nat → Colour) (k : Nat)
    [∀ v, Decidable (hits v k)]
    (hbody : ∀ v fb, v < n → (body v fb)[k]? = if hits v k ∧ k < fb.length then some (value v k) else fb[k]?)
    (hlen : ∀ v fb, (body v fb).length = fb.length)
    (honce : ∀ v v', v < n → v' < n → hits v k → hits v' k → v = v') (fb : Pixels) :
    (forRange n body fb).length = fb.length ∧
      (∀ v, v < n → hits v k → k < fb.length → (forRange n body fb)[k]? = some (value v k)) ∧
      ((∀ v, v < n → ¬ hits v k) → (forRange n body fb)[k]? = fb[k]?) := by
  induction n with
  | zero => exact ⟨rfl, fun v hv => absurd hv (by omega), fun _ => rfl⟩
  | succ n ih =>
    obtain ⟨hl, hhit, hmiss⟩ := ih (fun v fb hv => hbody v fb (by omega)) fun v v' hv hv' => honce v v' (by omega) (by omega)
    refine ⟨(hlen n _).trans hl, fun v hv hh hk => ?_, fun hno => ?_⟩
    · simp only [forRange]
      rw [hbody n _ (by omega)]
      by_cases hn : hits n k
      · rw [if_pos ⟨hn, hl ▸ hk⟩, honce n v (by omega) hv hn hh]
      · have hvn : v < n := by
          rcases Nat.lt_or_eq_of_le (Nat.le_of_lt_succ hv) with h | h
          · exact h
          · exact absurd (h ▸ hh) hn
        rw [if_neg fun h => hn h.1, hhit v hvn hh hk]
    · simp only [forRange]
      rw [hbody n _ (by omega), if_neg fun h => hno n (by omega) h.1, hmiss fun v hv => hno v (by omega)]

@[simp] theorem setPixel_length (w : Nat) (fb : Pixels) (y x : Nat) (c : Colour) : (setPixel w fb y x c).length = fb.length := by
  simp [setPixel]

theorem forRange_length (n : Nat) (body : Nat → Pixels → Pixels) (hlen : ∀ v fb, (body v fb).length = fb.length) (fb : Pixels) :
    (forRange n body fb).length = fb.length := by
  induction n with
  | zero => rfl
  | succ n ih => exact (hlen n _).trans ih

@[simp] theorem pasteBlock_length (w d r c : Nat) (block : Nat → Nat → Colour) (fb : Pixels) :
    (pasteBlock w d r c block fb).length = fb.length :=
  forRange_length _ _ (fun _ fb => forRange_length _ _ (fun _ _ => setPixel_length ..) fb) fb

/-- Row `y`, column `x` lies in the square of side `d` at grid row `r`, column `c` (R188). -/
abbrev InSquare (d r c y x : Nat) : Prop := r * d ≤ y ∧ y < r * d + d ∧ c * d ≤ x ∧ x < c * d + d

/-- Pasting a block writes its square and nothing else (R185). -/
theorem pasteBlock_get {w d r c : Nat} (block : Nat → Nat → Colour) (fb : Pixels) {y x : Nat} (hw : c * d + d ≤ w) (hx : x < w)
    (hk : y * w + x < fb.length) :
    (pasteBlock w d r c block fb)[y * w + x]? =
      if InSquare d r c y x then some (block (y - r * d) (x - c * d)) else fb[y * w + x]? := by
  have row : ∀ py, py < d → ∀ fb : Pixels, y * w + x < fb.length →
      (forRange d (fun px fb => setPixel w fb (r * d + py) (c * d + px) (block py px)) fb)[y * w + x]? =
        if y = r * d + py ∧ c * d ≤ x ∧ x < c * d + d then some (block py (x - c * d)) else fb[y * w + x]? := by
    intro py _ fb hfb
    have hbody : ∀ px (fb : Pixels), px < d → (setPixel w fb (r * d + py) (c * d + px) (block py px))[y * w + x]? =
        if (y = r * d + py ∧ x = c * d + px) ∧ y * w + x < fb.length then some (block py px) else fb[y * w + x]? := by
      intro px fb hpx
      unfold setPixel
      rw [List.getElem?_set]
      by_cases hyx : y = r * d + py ∧ x = c * d + px
      · obtain ⟨rfl, rfl⟩ := hyx
        by_cases hin : (r * d + py) * w + (c * d + px) < fb.length
        · simp [hin]
        · simp [hin]
      · have hne : (r * d + py) * w + (c * d + px) ≠ y * w + x := fun h => by
          obtain ⟨h1, h2⟩ := rowCol_inj (by omega) hx h
          exact hyx ⟨h1.symm, h2.symm⟩
        rw [if_neg hne, if_neg fun h => hyx h.1]
    obtain ⟨-, hhit, hmiss⟩ := forRange_get d
      (fun px fb => setPixel w fb (r * d + py) (c * d + px) (block py px)) (fun px _ => y = r * d + py ∧ x = c * d + px)
      (fun px _ => block py px) (y * w + x) hbody (fun _ _ => setPixel_length ..)
      (fun v v' _ _ h h' => by omega) fb
    by_cases hin : y = r * d + py ∧ c * d ≤ x ∧ x < c * d + d
    · rw [if_pos hin, hhit (x - c * d) (by omega) ⟨hin.1, by omega⟩ hfb]
    · rw [if_neg hin, hmiss fun v hv h => hin ⟨h.1, by omega, by omega⟩]
  have hbody : ∀ py (fb : Pixels), py < d →
      (forRange d (fun px fb => setPixel w fb (r * d + py) (c * d + px) (block py px)) fb)[y * w + x]? =
        if (y = r * d + py ∧ c * d ≤ x ∧ x < c * d + d) ∧ y * w + x < fb.length then some (block py (x - c * d))
        else fb[y * w + x]? := by
    intro py fb hpy
    by_cases hfb : y * w + x < fb.length
    · rw [row py hpy fb hfb]
      by_cases hin : y = r * d + py ∧ c * d ≤ x ∧ x < c * d + d
      · rw [if_pos hin, if_pos ⟨hin, hfb⟩]
      · rw [if_neg hin, if_neg fun h => hin h.1]
    · rw [if_neg fun h => hfb h.2, List.getElem?_eq_none (Nat.le_of_not_lt hfb), List.getElem?_eq_none]
      rw [forRange_length _ _ (fun _ _ => setPixel_length ..)]
      omega
  obtain ⟨-, hhit, hmiss⟩ := forRange_get d _ (fun py _ => y = r * d + py ∧ c * d ≤ x ∧ x < c * d + d)
    (fun py _ => block py (x - c * d)) (y * w + x) hbody
    (fun _ fb => forRange_length _ _ (fun _ _ => setPixel_length ..) fb) (fun v v' _ _ h h' => by omega) fb
  unfold pasteBlock
  by_cases hin : InSquare d r c y x
  · obtain ⟨h1, h2, h3, h4⟩ := id hin
    rw [if_pos hin, hhit (y - r * d) (by omega) ⟨by omega, h3, h4⟩ hk]
  · rw [if_neg hin, hmiss fun v hv h => hin ⟨by omega, by omega, h.2.1, h.2.2⟩]

@[simp] theorem pasteTile_length (s : State) (rp : Palette) (tpr scale i : Nat) (fb : Pixels) :
    (pasteTile s rp tpr scale i fb).length = fb.length := pasteBlock_length ..

@[simp] theorem pasteTiles_length (s : State) (rp : Palette) (tpr scale : Nat) (tiles : List Nat) (fb : Pixels) :
    (pasteTiles s rp tpr scale tiles fb).length = fb.length := by
  unfold pasteTiles
  induction tiles generalizing fb with
  | nil => rfl
  | cons i tiles ih => simpa using ih (pasteTile s rp tpr scale i fb)

/-- A tile's square lies within the sheet's columns (R188). -/
theorem square_in_sheet {tpr d : Nat} (i : Nat) (htpr : 1 ≤ tpr) : i % tpr * d + d ≤ tpr * d :=
  calc i % tpr * d + d = (i % tpr + 1) * d := by ring
    _ ≤ tpr * d := Nat.mul_le_mul_right d (Nat.mod_lt i htpr)

/-- Row `y`, column `x` lies in the square of tile `i` exactly if its tile cell is tile `i`'s (R188, R189). -/
theorem inSquare_iff {tpr d y x : Nat} (i : Nat) (hd : 1 ≤ d) (hx : x < tpr * d) :
    InSquare d (i / tpr) (i % tpr) y x ↔ i = y / d * tpr + x / d := by
  have htpr : 0 < tpr := Nat.pos_of_ne_zero fun h => by simp [h] at hx
  have hc : x / d < tpr := Nat.div_lt_of_lt_mul (by rwa [Nat.mul_comm])
  have between : ∀ q z : Nat, (q * d ≤ z ∧ z < q * d + d) ↔ z / d = q := fun q z => by
    rw [Nat.div_eq_iff hd, Nat.mul_comm q d]
    omega
  have split : InSquare d (i / tpr) (i % tpr) y x ↔ y / d = i / tpr ∧ x / d = i % tpr := by
    rw [← between, ← between, and_assoc]
  rw [split]
  constructor
  · rintro ⟨h1, h2⟩
    rw [h1, h2, Nat.mul_comm]
    exact (Nat.div_add_mod i tpr).symm
  · intro h
    rw [h]
    exact ⟨(rowCol_div hc).symm, (rowCol_mod hc).symm⟩

/-- What pasting a list of tiles leaves at each pixel: the tile whose square covers it, if that is in the list, and what was there
before otherwise (R185, R188). -/
theorem pasteTiles_get (s : State) (rp : Palette) {tpr scale : Nat} (tiles : List Nat) (fb : Pixels) {y x : Nat}
    (hscale : 1 ≤ scale) (hx : x < tpr * (8 * scale)) (hk : y * (tpr * (8 * scale)) + x < fb.length) :
    (pasteTiles s rp tpr scale tiles fb)[y * (tpr * (8 * scale)) + x]? =
      if y / (8 * scale) * tpr + x / (8 * scale) ∈ tiles then
        some (rasterize (decodeTile s (y / (8 * scale) * tpr + x / (8 * scale))) rp scale (y % (8 * scale)) (x % (8 * scale)))
      else fb[y * (tpr * (8 * scale)) + x]? := by
  have htpr : 1 ≤ tpr := Nat.pos_of_ne_zero fun h => by simp [h] at hx
  have hc : x / (8 * scale) < tpr := Nat.div_lt_of_lt_mul (by rwa [Nat.mul_comm])
  unfold pasteTiles
  induction tiles generalizing fb with
  | nil => simp
  | cons i tiles ih =>
    rw [List.foldl_cons, ih _ (by simpa using hk)]
    by_cases hmem : y / (8 * scale) * tpr + x / (8 * scale) ∈ tiles
    · rw [if_pos hmem, if_pos (List.mem_cons_of_mem i hmem)]
    · rw [if_neg hmem]
      unfold pasteTile
      rw [pasteBlock_get _ fb (square_in_sheet i htpr) hx hk]
      by_cases hi : i = y / (8 * scale) * tpr + x / (8 * scale)
      · rw [if_pos ((inSquare_iff i (by omega) hx).mpr hi), if_pos (hi ▸ List.mem_cons_self), hi, rowCol_div hc, rowCol_mod hc]
        rw [Nat.mod_eq_sub_div_mul (x := y), Nat.mod_eq_sub_div_mul (x := x)]
      · rw [if_neg fun h => hi ((inSquare_iff i (by omega) hx).mp h), if_neg]
        intro h
        rcases List.mem_cons.mp h with h | h
        · exact hi h.symm
        · exact hmem h

end Sys2Proof.Machine
end

