-- ==== Sys2Proof/Laws/Commands.lean ====
section
/-!
SUPPORT. One law per command that says everything it can do: it fails a check and takes the fault completion, or it passes every check
and takes its success (60_exceptions.md R213 to R215); and one law of exec, which stops only with the fault of the claim (20_memory.md
R68). Every invariant of the commands follows from these.
-/

namespace Sys2Proof.Machine

theorem sat32_of_lt {n : Nat} (h : n < 2 ^ 32) : sat32 n = BitVec.ofNat 32 n := by
  rw [sat32, Nat.min_eq_left (by omega)]

theorem sat32_toNat (n : Nat) : (sat32 n).toNat = min n (2 ^ 32 - 1) := by
  simp only [sat32, BitVec.toNat_ofNat]
  exact Nat.mod_eq_of_lt (by omega)

theorem raiseFault_eq (s : State) (code : ErrCode) (req avail : Nat) :
    s.raiseFault code (BitVec.ofNat 32 req) (BitVec.ofNat 32 avail) = faultCompletion s code req avail := rfl

/-- The room COMPOSE's checks ask for (R182, R213). -/
structure SheetFits (p : Params) (s : State) (tpr scale : Nat) : Prop where
  tprIs : s.tilesPerRow.toInt = tpr
  scaleIs : s.scale.toInt = scale
  tprPos : 1 ≤ tpr
  scalePos : 1 ≤ scale
  buffer : s.inLen.toNat ≤ p.inCap
  width : tpr * (8 * scale) ≤ p.maxDim
  height : ceilDiv (s.inLen.toNat / 16) tpr * (8 * scale) ≤ p.maxDim
  pixels : tpr * (8 * scale) * (ceilDiv (s.inLen.toNat / 16) tpr * (8 * scale)) ≤ p.fbCap

/-- The sheet COMPOSE leaves in FB when it succeeds. -/
def sheetOf (p : Params) (s : State) (tpr scale : Nat) : Pixels :=
  pasteTiles s (resolve p s.psel) tpr scale (List.range (s.inLen.toNat / 16))
    (blackSheet (ceilDiv (s.inLen.toNat / 16) tpr * (8 * scale)) (tpr * (8 * scale)))

/-- What DECODE can do. -/
theorem decodeCommand_cases (p : Params) (s : State) :
    (∃ code req avail, code ≠ .none ∧ decodeCommand p s = s.raiseFault code req avail) ∨
      (s.inLen.toNat ≤ p.inCap ∧ (s.tileIndex.toNat + 1) * 16 ≤ s.inLen.toNat ∧
        decodeCommand p s = (s.setCig (decodeTile s s.tileIndex.toNat)).completeSuccess false) := by
  simp only [decodeCommand, u32]
  by_cases h1 : s.inLen.toNat > p.inCap
  · exact .inl ⟨.capacity, _, _, by decide, if_pos h1⟩
  rw [if_neg h1]
  by_cases h2 : s.inLen.toNat < (s.tileIndex.toNat + 1) * 16
  · exact .inl ⟨.range, _, _, by decide, if_pos h2⟩
  rw [if_neg h2]
  exact .inr ⟨by omega, by omega, rfl⟩

/-- What RASTER can do. -/
theorem rasterCommand_cases (p : Params) (s : State) :
    (∃ code req avail, code ≠ .none ∧ rasterCommand p s = s.raiseFault code req avail) ∨
      (∃ scale : Nat, s.status.cigValid = true ∧ s.status.rpalValid = true ∧ s.scale.toInt = scale ∧ 1 ≤ scale ∧
        8 * scale ≤ p.maxDim ∧ 8 * scale * (8 * scale) ≤ p.rbCap ∧
        rasterCommand p s =
          (s.setRb (8 * scale) (pixelsOf (8 * scale) (8 * scale) (rasterize s.cig s.rpal scale))).completeSuccess false) := by
  simp only [rasterCommand, s32]
  by_cases h1 : s.status.cigValid = false ∨ s.status.rpalValid = false
  · exact .inl ⟨.notReady, _, _, by decide, if_pos h1⟩
  rw [if_neg h1]
  by_cases h2 : s.scale.toInt < 1
  · exact .inl ⟨.badScale, _, _, by decide, if_pos h2⟩
  rw [if_neg h2]
  by_cases h3 : 8 * s.scale.toInt.toNat > p.maxDim
  · exact .inl ⟨.capacity, _, _, by decide, if_pos h3⟩
  rw [if_neg h3]
  by_cases h4 : 8 * s.scale.toInt.toNat * (8 * s.scale.toInt.toNat) > p.rbCap
  · exact .inl ⟨.capacity, _, _, by decide, if_pos h4⟩
  rw [if_neg h4]
  rw [not_or, Bool.not_eq_false, Bool.not_eq_false] at h1
  exact .inr ⟨s.scale.toInt.toNat, h1.1, h1.2, by omega, by omega, by omega, by omega, rfl⟩

/-- What COMPOSE can do. -/
theorem composeCommand_cases (p : Params) (s : State) :
    (∃ code req avail, code ≠ .none ∧ composeCommand p s = s.raiseFault code req avail) ∨
      (∃ tpr scale : Nat, SheetFits p s tpr scale ∧
        composeCommand p s =
          (s.setFb (tpr * (8 * scale)) (ceilDiv (s.inLen.toNat / 16) tpr * (8 * scale)) (s.inLen.toNat / 16)
            (sheetOf p s tpr scale)).completeSuccess (truncationWarning s.inLen.toNat)) := by
  simp only [composeCommand, s32, u32]
  by_cases h1 : s.inLen.toNat > p.inCap
  · exact .inl ⟨.capacity, _, _, by decide, if_pos h1⟩
  rw [if_neg h1]
  by_cases h2 : s.tilesPerRow.toInt < 1
  · exact .inl ⟨.badTpr, _, _, by decide, if_pos h2⟩
  rw [if_neg h2]
  by_cases h3 : s.scale.toInt < 1
  · exact .inl ⟨.badScale, _, _, by decide, if_pos h3⟩
  rw [if_neg h3]
  by_cases h4 : s.tilesPerRow.toInt.toNat * (8 * s.scale.toInt.toNat) > p.maxDim
  · exact .inl ⟨.capacity, _, _, by decide, if_pos h4⟩
  rw [if_neg h4]
  by_cases h5 : ceilDiv (s.inLen.toNat / 16) s.tilesPerRow.toInt.toNat * (8 * s.scale.toInt.toNat) > p.maxDim
  · exact .inl ⟨.capacity, _, _, by decide, if_pos h5⟩
  rw [if_neg h5]
  by_cases h6 : s.tilesPerRow.toInt.toNat * (8 * s.scale.toInt.toNat) * (ceilDiv (s.inLen.toNat / 16) s.tilesPerRow.toInt.toNat * (8 * s.scale.toInt.toNat)) > p.fbCap
  · exact .inl ⟨.capacity, _, _, by decide, if_pos h6⟩
  rw [if_neg h6]
  exact .inr ⟨s.tilesPerRow.toInt.toNat, s.scale.toInt.toNat,
    ⟨by omega, by omega, by omega, by omega, by omega, by omega, by omega, by omega⟩, rfl⟩

/-- DECODE's success, from its checks. -/
theorem decodeCommand_of_fits {p : Params} {s : State} (h1 : s.inLen.toNat ≤ p.inCap)
    (h2 : (s.tileIndex.toNat + 1) * 16 ≤ s.inLen.toNat) :
    decodeCommand p s = (s.setCig (decodeTile s s.tileIndex.toNat)).completeSuccess false := by
  simp only [decodeCommand, u32]
  rw [if_neg (by omega), if_neg (by omega)]

/-- RASTER's success, from its checks. -/
theorem rasterCommand_of_fits {p : Params} {s : State} {scale : Nat} (hc : s.status.cigValid = true) (hp : s.status.rpalValid = true)
    (hs : s.scale.toInt = scale) (h1 : 1 ≤ scale) (hd : 8 * scale ≤ p.maxDim) (hcap : 8 * scale * (8 * scale) ≤ p.rbCap) :
    rasterCommand p s =
      (s.setRb (8 * scale) (pixelsOf (8 * scale) (8 * scale) (rasterize s.cig s.rpal scale))).completeSuccess false := by
  simp only [rasterCommand, s32, hs, Int.toNat_natCast]
  rw [if_neg (by simp [hc, hp]), if_neg (by omega), if_neg (by omega), if_neg (by omega)]

/-- COMPOSE's success, from its checks. -/
theorem composeCommand_of_fits {p : Params} {s : State} {tpr scale : Nat} (h : SheetFits p s tpr scale) :
    composeCommand p s =
      (s.setFb (tpr * (8 * scale)) (ceilDiv (s.inLen.toNat / 16) tpr * (8 * scale)) (s.inLen.toNat / 16)
        (sheetOf p s tpr scale)).completeSuccess (truncationWarning s.inLen.toNat) := by
  obtain ⟨ht, hs, t1, s1, hb, hw, hh, hp⟩ := h
  simp only [composeCommand, s32, u32, ht, hs, Int.toNat_natCast]
  rw [if_neg (by omega), if_neg (by omega), if_neg (by omega), if_neg (by omega), if_neg (by omega), if_neg (by omega)]
  rfl

/-- The state a command's pseudocode leaves on the built hardware. -/
def commandState : Instr → State → State
  | .decode => decodeCommand Config.params
  | .resolve => resolveCommand Config.params
  | .raster => rasterCommand Config.params
  | .compose => composeCommand Config.params

/-- What exec can do: leave the state of the command's pseudocode, its input written or a check failed, or stop with the fault of the
claim (R68, I2). -/
theorem exec_outcome (i : Instr) (s : State) :
    ((InputsWritten i s ∨ (commandState i s).status.errCode ≠ .none) ∧ exec i s = .next (commandState i s)) ∨
      (¬ InputsWritten i s ∧ (commandState i s).status.errCode = .none ∧ exec i s = .fault .unwrittenInputRead) := by
  cases i with
  | decode =>
    have h := s.afterReading_cases (16 * u32 s.tileIndex) 16 (decodeCommand Config.params s)
    rw [State.written_iff] at h
    exact h
  | resolve => exact .inl ⟨.inl trivial, rfl⟩
  | raster => exact .inl ⟨.inl trivial, rfl⟩
  | compose =>
    have h := s.afterReading_cases 0 (16 * (u32 s.inLen / 16)) (composeCommand Config.params s)
    simp only [State.written_iff, Nat.zero_add] at h
    exact h

/-- A next state of exec is the one the command's pseudocode leaves. -/
theorem exec_next {i : Instr} {s t : State} (h : exec i s = .next t) : t = commandState i s := by
  rcases exec_outcome i s with ⟨_, h'⟩ | ⟨_, _, h'⟩ <;> rw [h'] at h <;> cases h
  rfl

/-- With its input written a command completes (R254). -/
theorem exec_of_written {i : Instr} {s : State} (h : InputsWritten i s) : exec i s = .next (commandState i s) := by
  rcases exec_outcome i s with ⟨_, h'⟩ | ⟨hn, _⟩
  · exact h'
  · exact absurd h hn

/-- A command that fails a check completes, whatever IN holds (R213). -/
theorem exec_of_check {i : Instr} {s : State} (h : (commandState i s).status.errCode ≠ .none) :
    exec i s = .next (commandState i s) := by
  rcases exec_outcome i s with ⟨_, h'⟩ | ⟨_, hn, _⟩
  · exact h'
  · exact absurd hn h

/-- A command that passes its checks and reads a byte HOST has not written since reset (R68, I2). -/
theorem exec_of_unwritten {i : Instr} {s : State} (h : ¬ InputsWritten i s) (he : (commandState i s).status.errCode = .none) :
    exec i s = .fault .unwrittenInputRead := by
  rcases exec_outcome i s with ⟨h' | h', _⟩ | ⟨_, _, h'⟩
  · exact absurd h' h
  · exact absurd he h'
  · exact h'

/-- What a command's pseudocode can leave: the fault completion, or its own outputs changed and the success completion (R210). -/
theorem commandState_cases (i : Instr) (s : State) :
    (∃ code req avail, code ≠ .none ∧ i ≠ .resolve ∧ commandState i s = s.raiseFault code req avail) ∨
      (i = .decode ∧ s.inLen.toNat ≤ Config.params.inCap ∧ (s.tileIndex.toNat + 1) * 16 ≤ s.inLen.toNat ∧
        commandState i s = (s.setCig (decodeTile s s.tileIndex.toNat)).completeSuccess false) ∨
      (i = .resolve ∧ commandState i s = (s.setRpal (resolve Config.params s.psel)).completeSuccess false) ∨
      (i = .raster ∧ ∃ scale : Nat, s.status.cigValid = true ∧ s.status.rpalValid = true ∧ s.scale.toInt = scale ∧ 1 ≤ scale ∧
        8 * scale ≤ Config.params.maxDim ∧ 8 * scale * (8 * scale) ≤ Config.params.rbCap ∧
        commandState i s =
          (s.setRb (8 * scale) (pixelsOf (8 * scale) (8 * scale) (rasterize s.cig s.rpal scale))).completeSuccess false) ∨
      (i = .compose ∧ ∃ tpr scale : Nat, SheetFits Config.params s tpr scale ∧
        commandState i s =
          (s.setFb (tpr * (8 * scale)) (ceilDiv (s.inLen.toNat / 16) tpr * (8 * scale)) (s.inLen.toNat / 16)
            (sheetOf Config.params s tpr scale)).completeSuccess (truncationWarning s.inLen.toNat)) := by
  cases i with
  | decode =>
    rcases decodeCommand_cases Config.params s with ⟨c, q, a, hc, h⟩ | ⟨h1, h2, h⟩
    · exact .inl ⟨c, q, a, hc, by decide, h⟩
    · exact .inr (.inl ⟨rfl, h1, h2, h⟩)
  | resolve => exact .inr (.inr (.inl ⟨rfl, rfl⟩))
  | raster =>
    rcases rasterCommand_cases Config.params s with ⟨c, q, a, hc, h⟩ | ⟨scale, h1, h2, h3, h4, h5, h6, h⟩
    · exact .inl ⟨c, q, a, hc, by decide, h⟩
    · exact .inr (.inr (.inr (.inl ⟨rfl, scale, h1, h2, h3, h4, h5, h6, h⟩)))
  | compose =>
    rcases composeCommand_cases Config.params s with ⟨c, q, a, hc, h⟩ | ⟨tpr, scale, h1, h⟩
    · exact .inl ⟨c, q, a, hc, by decide, h⟩
    · exact .inr (.inr (.inr (.inr ⟨rfl, tpr, scale, h1, h⟩)))

/-- Every command's pseudocode ends with BUSY = 0 and leaves HOST and the model's own counters alone (R230). -/
theorem commandState_frame (i : Instr) (s : State) :
    (commandState i s).status.busy = false ∧ (commandState i s).hostOps = s.hostOps ∧ (commandState i s).hostReads = s.hostReads ∧
      (commandState i s).delay = s.delay ∧ (commandState i s).draws = s.draws := by
  rcases commandState_cases i s with ⟨c, q, a, hc, _, h⟩ | ⟨_, _, _, h⟩ | ⟨_, h⟩ | ⟨_, _, _, _, _, _, _, _, h⟩ | ⟨_, _, _, _, h⟩ <;>
    rw [h] <;> exact ⟨rfl, rfl, rfl, rfl, rfl⟩

/-- The same of a next state of exec. -/
theorem exec_cases {i : Instr} {s t : State} (h : exec i s = .next t) :
    (∃ code req avail, code ≠ .none ∧ i ≠ .resolve ∧ t = s.raiseFault code req avail) ∨
      (i = .decode ∧ s.inLen.toNat ≤ Config.params.inCap ∧ (s.tileIndex.toNat + 1) * 16 ≤ s.inLen.toNat ∧
        t = (s.setCig (decodeTile s s.tileIndex.toNat)).completeSuccess false) ∨
      (i = .resolve ∧ t = (s.setRpal (resolve Config.params s.psel)).completeSuccess false) ∨
      (i = .raster ∧ ∃ scale : Nat, s.status.cigValid = true ∧ s.status.rpalValid = true ∧ s.scale.toInt = scale ∧ 1 ≤ scale ∧
        8 * scale ≤ Config.params.maxDim ∧ 8 * scale * (8 * scale) ≤ Config.params.rbCap ∧
        t = (s.setRb (8 * scale) (pixelsOf (8 * scale) (8 * scale) (rasterize s.cig s.rpal scale))).completeSuccess false) ∨
      (i = .compose ∧ ∃ tpr scale : Nat, SheetFits Config.params s tpr scale ∧
        t = (s.setFb (tpr * (8 * scale)) (ceilDiv (s.inLen.toNat / 16) tpr * (8 * scale)) (s.inLen.toNat / 16)
            (sheetOf Config.params s tpr scale)).completeSuccess (truncationWarning s.inLen.toNat)) := by
  rw [exec_next h]
  exact commandState_cases i s

/-- A RASTER that succeeds passed its checks, and this is what it left (R162). -/
theorem exec_raster_success {s t : State} (h : exec .raster s = .next t) (he : t.status.errCode = .none) :
    ∃ scale : Nat, s.scale.toInt = scale ∧ 1 ≤ scale ∧ 8 * scale ≤ Config.params.maxDim ∧
      8 * scale * (8 * scale) ≤ Config.params.rbCap ∧ s.status.cigValid = true ∧ s.status.rpalValid = true ∧
      t = (s.setRb (8 * scale) (pixelsOf (8 * scale) (8 * scale) (rasterize s.cig s.rpal scale))).completeSuccess false := by
  rcases exec_cases h with ⟨c, q, a, hc, _, rfl⟩ | ⟨hi, _⟩ | ⟨hi, _⟩ | ⟨_, scale, h1, h2, h3, h4, h5, h6, h⟩ | ⟨hi, _⟩
  · exact absurd he hc
  · cases hi
  · cases hi
  · exact ⟨scale, h3, h4, h5, h6, h1, h2, h⟩
  · cases hi

/-- A COMPOSE that succeeds passed its checks, and this is what it left, on any parameters (R182). -/
theorem composeCommand_success {p : Params} {s : State} (he : (composeCommand p s).status.errCode = .none) :
    ∃ tpr scale : Nat, SheetFits p s tpr scale ∧
      composeCommand p s =
        (s.setFb (tpr * (8 * scale)) (ceilDiv (s.inLen.toNat / 16) tpr * (8 * scale)) (s.inLen.toNat / 16)
          (sheetOf p s tpr scale)).completeSuccess (truncationWarning s.inLen.toNat) := by
  rcases composeCommand_cases p s with ⟨c, q, a, hc, h⟩ | h
  · rw [h] at he
    exact absurd he hc
  · exact h

/-- The same of the meaning of COMPOSE. -/
theorem exec_compose_success {s t : State} (h : exec .compose s = .next t) (he : t.status.errCode = .none) :
    ∃ tpr scale : Nat, SheetFits Config.params s tpr scale ∧
      t = (s.setFb (tpr * (8 * scale)) (ceilDiv (s.inLen.toNat / 16) tpr * (8 * scale)) (s.inLen.toNat / 16)
        (sheetOf Config.params s tpr scale)).completeSuccess (truncationWarning s.inLen.toNat) := by
  have e : t = composeCommand Config.params s := exec_next h
  subst e
  exact composeCommand_success he

/-- The sheet has its full extent. -/
@[simp] theorem sheetOf_length (p : Params) (s : State) (tpr scale : Nat) :
    (sheetOf p s tpr scale).length = ceilDiv (s.inLen.toNat / 16) tpr * (8 * scale) * (tpr * (8 * scale)) := by
  simp [sheetOf, blackSheet]

/-- R189's closed form, of the sheet itself. -/
theorem sheetOf_get (p : Params) (s : State) {tpr scale y x : Nat} (hscale : 1 ≤ scale)
    (hy : y < ceilDiv (s.inLen.toNat / 16) tpr * (8 * scale)) (hx : x < tpr * (8 * scale)) :
    (sheetOf p s tpr scale)[y * (tpr * (8 * scale)) + x]? = some
      (if y / (8 * scale) * tpr + x / (8 * scale) < s.inLen.toNat / 16 then
        rasterize (decodeTile s (y / (8 * scale) * tpr + x / (8 * scale))) (resolve p s.psel) scale (y % (8 * scale)) (x % (8 * scale))
      else black) := by
  have hk := rowCol_lt hy hx
  rw [sheetOf, pasteTiles_get s _ _ _ hscale hx (by simpa [blackSheet] using hk)]
  simp only [List.mem_range]
  split_ifs
  · rfl
  · simp [blackSheet, hk]

/-- Tile `i` of a sheet lies in one of its rows (R183, R188). -/
theorem row_lt_ceilDiv {n tpr i : Nat} (htpr : 1 ≤ tpr) (hi : i < n) : i / tpr < ceilDiv n tpr := by
  rw [ceilDiv, Nat.lt_iff_add_one_le, Nat.le_div_iff_mul_le htpr]
  have h1 : i / tpr * tpr ≤ i := Nat.div_mul_le_self i tpr
  have h2 : (i / tpr + 1) * tpr = i / tpr * tpr + tpr := by ring
  omega

/-- The parameters keep R9's constraints. -/
theorem params_wellFormed : Config.params.wellFormed = true := by
  have h : Config.maxDimOver % (2 ^ 32 - 8) < 2 ^ 32 - 8 := Nat.mod_lt _ (by decide)
  simp only [Params.wellFormed, Bool.and_eq_true, decide_eq_true_eq]
  simp only [Config.params]
  omega

/-- A dimension that fits MAX_DIM fits its register. -/
theorem dimension_toNat {p : Params} {d : Nat} (hp : p.maxDim ≤ 2 ^ 32 - 1) (h : d ≤ p.maxDim) : (BitVec.ofNat 32 d).toNat = d := by
  rw [BitVec.toNat_ofNat, Nat.mod_eq_of_lt (by omega)]

theorem params_bounds : 16 ≤ Config.params.inCap ∧ 64 ≤ Config.params.rbCap ∧ 64 ≤ Config.params.fbCap ∧ 8 ≤ Config.params.maxDim ∧
    Config.params.maxDim ≤ 2 ^ 32 - 1 := by
  have h := params_wellFormed
  simp only [Params.wellFormed, Bool.and_eq_true, decide_eq_true_eq] at h
  tauto

end Sys2Proof.Machine
end

