-- ==== Sys2Proof/Laws/PerInstr.lean ====
section
/-!
SUPPORT. What is said of every instruction as syntax: it is well formed, and its word has its opcode in OP and zero in RSV
(30_encoding.md R90, R91).
-/

namespace Sys2Proof.Laws.CommandWord

/-- The instruction is well formed and its word has the fields of R90. -/
def Statement (i : Instr) : Prop :=
  i.wellFormed = true ∧ commandOp (encode i) = opcode i ∧ commandRsv (encode i) = 0 ∧ wordWellFormed (encode i) = true

theorem decode : Statement .decode := ⟨rfl, by decide, by decide, by decide⟩

theorem resolve : Statement .resolve := ⟨rfl, by decide, by decide, by decide⟩

theorem raster : Statement .raster := ⟨rfl, by decide, by decide, by decide⟩

theorem compose : Statement .compose := ⟨rfl, by decide, by decide, by decide⟩

end Sys2Proof.Laws.CommandWord
end

