-- ==== Sys2Proof/Laws/Step.lean ====
section
/-!
SUPPORT. What a step is and what it can do: one equation per mover, and one law that lists every next state (10_state.md R21,
60_exceptions.md R230).
-/

namespace Sys2Proof.Machine

/-- BLOCK's step when it is BLOCK's move. -/
theorem step_of_blockMoves {s : State} (h : BlockMoves s) : step s = blockStep s := by
  simp [step, h.1, h.2]

/-- HOST's step when it is HOST's move, on the state its operation sees. -/
theorem step_of_hostMoves {s u : State} (h : HostMoves s u) : step s = hostStep Config.params u := by
  rcases h with ⟨hb, rfl⟩ | ⟨hb, k, hk, rfl⟩
  · simp [step, hb]
  · simp [step, hb, hk]

/-- Somebody moves. -/
theorem blockMoves_or_hostMoves (s : State) : BlockMoves s ∨ ∃ u, HostMoves s u := by
  cases hb : s.status.busy with
  | false => exact .inr ⟨s, .inl ⟨hb, rfl⟩⟩
  | true =>
    cases hd : s.delay with
    | zero => exact .inl ⟨hb, hd⟩
    | succ k => exact .inr ⟨{ s with delay := k }, .inr ⟨hb, k, hd, rfl⟩⟩

/-- The state HOST's operation sees is the state itself but for `delay`. -/
theorem hostMoves_eq {s u : State} (h : HostMoves s u) : u = { s with delay := u.delay } := by
  rcases h with ⟨_, rfl⟩ | ⟨_, k, _, rfl⟩ <;> rfl

/-- BLOCK's step: a command, or the fault completion of an illegal word. -/
theorem blockStep_cases (s : State) :
    (∃ i, decode s.pending = .command i ∧ blockStep s = exec i s) ∨
      (decode s.pending = .illegalCommand ∧ blockStep s = .next (s.raiseFault .illegalCommand 0 0)) := by
  unfold blockStep
  cases h : decode s.pending with
  | command i => exact .inl ⟨i, rfl, rfl⟩
  | illegalCommand => exact .inr ⟨rfl, rfl⟩

/-- HOST's step with an operation it may perform. -/
theorem hostStep_cons {p : Params} {s : State} {op : HostOp} {rest : List HostOp} (h : s.hostOps = op :: rest)
    (hr : op.refusal s.status.busy = none) : hostStep p s = op.perform p { s with hostOps := rest } := by
  simp [hostStep, h, hr]

/-- HOST's step with an operation the spec does not give it. -/
theorem hostStep_refused {p : Params} {s : State} {op : HostOp} {rest : List HostOp} {r : Refusal} (h : s.hostOps = op :: rest)
    (hr : op.refusal s.status.busy = some r) : hostStep p s = .refused r := by
  simp [hostStep, h, hr]

/-- What answering a read can do. -/
theorem answer_next {r : ReadResult} {s t : State} (h : s.answer r = .next t) :
    ∃ v d, t = { s with hostReads := s.hostReads ++ [v], draws := d } := by
  cases r with
  | value w => exact ⟨w, s.draws, by simpa [State.answer] using h.symm⟩
  | unspecified => exact ⟨_, _, by simpa [State.answer] using h.symm⟩
  | invalid f => simp [State.answer] at h

/-- What a register write can do: start a command, store a control register, or nothing (R24, R230). -/
theorem writeReg_cases (offset : Nat) (v : Word) (s : State) :
    (Reg.atOffset offset = some .cmd ∧ s.writeReg offset v = s.startCommand v) ∨
      (∃ a b c d e, s.writeReg offset v = { s with inLen := a, tileIndex := b, tilesPerRow := c, scale := d, psel := e }) := by
  unfold State.writeReg
  split
  · exact .inl ⟨‹_›, rfl⟩
  all_goals exact .inr ⟨_, _, _, _, _, rfl⟩

/-- Every next state of HOST's step: idle, a started command, new control registers, a byte of IN, an answered read, a polled `wait`,
an ignored write, or reset. -/
theorem hostStep_cases {p : Params} {s t : State} (h : hostStep p s = .next t) :
    (s.hostOps = [] ∧ t = s) ∨
    ∃ op rest, s.hostOps = op :: rest ∧ op.refusal s.status.busy = none ∧
      ((∃ off w, op = .wr off w ∧ Reg.atOffset off = some .cmd ∧ t = ({ s with hostOps := rest } : State).startCommand w) ∨
        (∃ off w a b c d e, op = .wr off w ∧
          t = { s with hostOps := rest, inLen := a, tileIndex := b, tilesPerRow := c, scale := d, psel := e }) ∨
        (∃ a v, op = .wb a v ∧ a < p.inCap ∧ t = { s with hostOps := rest, inMem := s.inMem.write a v }) ∨
        (∃ v d, t = { s with hostOps := rest, hostReads := s.hostReads ++ [v], draws := d }) ∨
        (op = .wait ∧ s.status.busy = true ∧ t = s) ∨
        ((∀ off v, op ≠ .wr off v) ∧ t = { s with hostOps := rest }) ∨
        (op = .reset ∧ t = ({ s with hostOps := rest } : State).assertReset)) := by
  cases hops : s.hostOps with
  | nil =>
    simp only [hostStep, hops] at h
    exact .inl ⟨rfl, by simpa using h.symm⟩
  | cons op rest =>
    cases hr : op.refusal s.status.busy with
    | some r => rw [hostStep_refused hops hr] at h; cases h
    | none =>
      rw [hostStep_cons hops hr] at h
      refine .inr ⟨op, rest, rfl, hr, ?_⟩
      have read {r : ReadResult} (h : ({ s with hostOps := rest } : State).answer r = .next t) :
          ∃ v d, t = { s with hostOps := rest, hostReads := s.hostReads ++ [v], draws := d } := answer_next h
      cases op with
      | wr off w =>
        simp only [HostOp.perform] at h
        rcases writeReg_cases off w { s with hostOps := rest } with ⟨hc, hw⟩ | ⟨a, b, c, d, e, hw⟩
        · exact .inl ⟨off, w, rfl, hc, by simpa [hw] using h.symm⟩
        · exact .inr (.inl ⟨off, w, a, b, c, d, e, rfl, by simpa [hw] using h.symm⟩)
      | wb a v =>
        simp only [HostOp.perform, State.writeIn] at h
        split_ifs at h with ha
        · exact .inr (.inr (.inl ⟨a, v, rfl, ha, by simpa using h.symm⟩))
        · exact .inr (.inr (.inr (.inr (.inr (.inl ⟨by simp, by simpa using h.symm⟩)))))
      | rd off => exact .inr (.inr (.inr (.inl (read h))))
      | rb a => exact .inr (.inr (.inr (.inl (read h))))
      | rdct k => exact .inr (.inr (.inr (.inl (read h))))
      | rdcig k => exact .inr (.inr (.inr (.inl (read h))))
      | rdrb k => exact .inr (.inr (.inr (.inl (read h))))
      | rdfb k => exact .inr (.inr (.inr (.inl (read h))))
      | wait =>
        simp only [HostOp.perform] at h
        split_ifs at h with hb
        · refine .inr (.inr (.inr (.inr (.inl ⟨rfl, hb, ?_⟩))))
          rw [← Host.Outcome.next.inj h, ← hops]
        · exact .inr (.inr (.inr (.inr (.inr (.inl ⟨by simp, by simpa using h.symm⟩)))))
      | reset => exact .inr (.inr (.inr (.inr (.inr (.inr ⟨rfl, by simpa [HostOp.perform] using h.symm⟩)))))
      | wrct k v => exact .inr (.inr (.inr (.inr (.inr (.inl ⟨by simp, by simpa [HostOp.perform] using h.symm⟩)))))
      | wrcig k v => exact .inr (.inr (.inr (.inr (.inr (.inl ⟨by simp, by simpa [HostOp.perform] using h.symm⟩)))))
      | wrrb k v => exact .inr (.inr (.inr (.inr (.inr (.inl ⟨by simp, by simpa [HostOp.perform] using h.symm⟩)))))
      | wrfb k v => exact .inr (.inr (.inr (.inr (.inr (.inl ⟨by simp, by simpa [HostOp.perform] using h.symm⟩)))))

/-- A step in which HOST performs the first operation of its program. -/
theorem step_of_hostOp {s u : State} {op : HostOp} {rest : List HostOp} (h : HostMoves s u) (ho : s.hostOps = op :: rest)
    (hr : op.refusal s.status.busy = none) : step s = op.perform Config.params { u with hostOps := rest } := by
  have e := hostMoves_eq h
  rw [step_of_hostMoves h]
  exact hostStep_cons (by rw [e]; exact ho) (by rw [e]; exact hr)

/-- A step in which HOST's next operation is one the spec does not give it. -/
theorem step_of_refusal {s u : State} {op : HostOp} {rest : List HostOp} {r : Refusal} (h : HostMoves s u)
    (ho : s.hostOps = op :: rest) (hr : op.refusal s.status.busy = some r) : step s = .refused r := by
  have e := hostMoves_eq h
  rw [step_of_hostMoves h]
  exact hostStep_refused (rest := rest) (by rw [e]; exact ho) (by rw [e]; exact hr)

theorem runFor_zero (s : State) : runFor 0 s = .next s := rfl

/-- The host's run of any machine takes one step and goes on. -/
theorem coreRun_next (M : Host.Core) (k : Nat) {s t : M.State} (h : M.step s = .next t) : M.run (k + 1) s = M.run k t := by
  rw [Host.Core.run, h]

theorem coreRun_fault (M : Host.Core) (k : Nat) {s : M.State} {r : M.Fault} (h : M.step s = .fault r) :
    M.run (k + 1) s = .fault r := by
  rw [Host.Core.run, h]

theorem coreRun_refused (M : Host.Core) (k : Nat) {s : M.State} {r : M.Refusal} (h : M.step s = .refused r) :
    M.run (k + 1) s = .refused r := by
  rw [Host.Core.run, h]

theorem runFor_next {s t : State} (h : step s = .next t) (k : Nat) : runFor (k + 1) s = runFor k t := coreRun_next core k h

theorem runFor_fault {s : State} {r : Fault} (h : step s = .fault r) (k : Nat) : runFor (k + 1) s = .fault r :=
  coreRun_fault core k h

theorem runFor_refused {s : State} {r : Refusal} (h : step s = .refused r) (k : Nat) : runFor (k + 1) s = .refused r :=
  coreRun_refused core k h

/-- A run goes on from where it has come to. -/
theorem runFor_add {j : Nat} {s t : State} (h : runFor j s = .next t) (k : Nat) : runFor (j + k) s = runFor k t := by
  induction j generalizing s with
  | zero =>
    cases h
    rw [Nat.zero_add]
  | succ j ih =>
    cases hs : step s with
    | next u =>
      rw [runFor_next hs] at h
      rw [Nat.succ_add, runFor_next hs, ih h]
    | fault r => rw [runFor_fault hs] at h; cases h
    | refused r => rw [runFor_refused hs] at h; cases h

/-- A run that has stopped with a fault stays there. -/
theorem runFor_fault_add {j : Nat} {s : State} {r : Fault} (h : runFor j s = .fault r) (k : Nat) : runFor (j + k) s = .fault r := by
  induction j generalizing s with
  | zero => cases h
  | succ j ih =>
    rw [Nat.add_right_comm]
    cases hs : step s with
    | next t =>
      rw [runFor_next hs] at h ⊢
      exact ih h
    | fault r' =>
      rw [runFor_fault hs] at h ⊢
      exact h
    | refused r' =>
      rw [runFor_refused hs] at h
      cases h

theorem reg_atOffset_offset (r : Reg) : Reg.atOffset r.offset = some r := by
  cases r with
  | psel n => fin_cases n <;> rfl
  | rpal n => fin_cases n <;> rfl
  | _ => rfl

/-- A register found at an offset stands there. -/
theorem offset_of_atOffset {off : Nat} {r : Reg} (h : Reg.atOffset off = some r) : r.offset = off := by
  simpa using List.find?_some h

/-- Only offset 0 is CMD. -/
theorem atOffset_cmd {off : Nat} (h : Reg.atOffset off = some .cmd) : off = 0 := (offset_of_atOffset h).symm

theorem reg_offset_lt (r : Reg) : r.offset < 0x50 := by
  cases r <;> simp only [Reg.offset] <;> omega

theorem reg_offset_aligned (r : Reg) : r.offset % 4 = 0 := by
  cases r <;> simp only [Reg.offset] <;> omega

/-- No register stands at a reserved offset or outside REG (R37, R60). -/
theorem atOffset_reserved {off : Nat} (h : 0x50 ≤ off) : Reg.atOffset off = none := by
  cases hr : Reg.atOffset off with
  | none => rfl
  | some r => have := reg_offset_lt r; rw [offset_of_atOffset hr] at this; omega

/-- A control register reads as it was written (R27 to R31). -/
theorem readReg_writeReg_self (s : State) (v : Word) {r : Reg} (hr : r.isControl = true) :
    (s.writeReg r.offset v).readReg r.offset = .value v := by
  cases r with
  | psel n => simp [State.readReg, State.writeReg, reg_atOffset_offset]
  | inLen => rfl
  | tileIndex => rfl
  | tilesPerRow => rfl
  | scale => rfl
  | cmd => cases hr
  | status => cases hr
  | rpal n => cases hr
  | rbDim => cases hr
  | fbWidth => cases hr
  | fbHeight => cases hr
  | tileCount => cases hr
  | errReq => cases hr
  | errAvail => cases hr

/-- A write to one register, unless it starts a command, leaves every other register's reading. -/
theorem readReg_writeReg_other (s : State) (v : Word) {off off' : Nat} (hne : off' ≠ off) (hcmd : Reg.atOffset off ≠ some .cmd) :
    (s.writeReg off v).readReg off' = s.readReg off' := by
  have hregs : ∀ r r', Reg.atOffset off = some r → Reg.atOffset off' = some r' → r ≠ r' := by
    rintro r r' h h' rfl
    exact hne ((offset_of_atOffset h').symm.trans (offset_of_atOffset h))
  unfold State.readReg
  cases h' : Reg.atOffset off' with
  | none => rfl
  | some r' =>
    unfold State.writeReg
    cases h : Reg.atOffset off with
    | none => rfl
    | some r =>
      have hrr := hregs r r' h h'
      cases r with
      | cmd => exact absurd h hcmd
      | psel n =>
        cases r' with
        | psel m =>
          have hnm : (n : Nat) ≠ m := fun e => hrr (congrArg Reg.psel (Fin.ext e))
          simp [hnm]
        | _ => rfl
      | inLen => cases r' <;> first | rfl | exact absurd rfl hrr
      | tileIndex => cases r' <;> first | rfl | exact absurd rfl hrr
      | tilesPerRow => cases r' <;> first | rfl | exact absurd rfl hrr
      | scale => cases r' <;> first | rfl | exact absurd rfl hrr
      | _ => rfl

end Sys2Proof.Machine
end

