-- ==== Sys2Proof/Laws/Words.lean ====
section
/-!
SUPPORT. The bits of the packed words: STATUS (10_state.md R26), a colour (00_scope.md R13), four bytes of the host bus (20_memory.md R69).
-/

namespace Sys2Proof.Machine

theorem flagAt_getLsbD (k i : Nat) (b : Bool) (hi : i < 32) : (flagAt k b).getLsbD i = (decide (i = k) && b) := by
  simp only [flagAt, BitVec.getLsbD_shiftLeft, BitVec.getLsbD_setWidth, BitVec.getLsbD_ofBool]
  by_cases h : i = k
  · subst h
    simp [hi]
  · by_cases hlt : i < k
    · simp [hlt, h]
    · have : ¬ i - k = 0 := by omega
      simp [this, h]

/-- Each bit of STATUS (R26). -/
theorem Status.word_getLsbD (st : Status) (i : Nat) (hi : i < 32) :
    st.word.getLsbD i =
      ((decide (i = 0) && st.busy) || (decide (i = 1) && st.done) || (decide (i = 2) && st.faulted) || (decide (i = 3) && st.warn) ||
        (decide (i = 4) && st.cigValid) || (decide (i = 5) && st.rpalValid) || (decide (i = 6) && st.rbValid) ||
        (decide (i = 7) && st.fbValid) || (decide (8 ≤ i) && st.errCode.code.getLsbD (i - 8))) := by
  simp only [Status.word, BitVec.getLsbD_or, flagAt_getLsbD _ _ _ hi, BitVec.getLsbD_shiftLeft, BitVec.getLsbD_setWidth, hi,
    decide_true, Bool.true_and]
  by_cases h : i < 8
  · simp [h]
  · have h1 : i - 8 < 32 := by omega
    have h2 : 8 ≤ i := by omega
    simp [h, h1, h2]

/-- R37: bits [31:12] of STATUS read 0. -/
theorem Status.word_lt (st : Status) : st.word.toNat < 2 ^ 12 := by
  apply Nat.lt_pow_two_of_testBit
  intro i hi
  by_cases h : i < 32
  · rw [BitVec.testBit_toNat, st.word_getLsbD i h]
    have hcode : st.errCode.code.getLsbD (i - 8) = false := BitVec.getLsbD_of_ge _ _ (by omega)
    have h0 : ¬ i = 0 := by omega
    have h1 : ¬ i = 1 := by omega
    have h2 : ¬ i = 2 := by omega
    have h3 : ¬ i = 3 := by omega
    have h4 : ¬ i = 4 := by omega
    have h5 : ¬ i = 5 := by omega
    have h6 : ¬ i = 6 := by omega
    have h7 : ¬ i = 7 := by omega
    simp [*]
  · exact Nat.testBit_lt_two_pow (lt_of_lt_of_le st.word.isLt (Nat.pow_le_pow_right (by decide) (by omega)))

theorem shiftLeft_setWidth_toNat (b : Byte) {k : Nat} (hk : k ≤ 24) : (b.setWidth 32 <<< k).toNat = b.toNat * 2 ^ k := by
  have hb := b.isLt
  have : b.toNat * 2 ^ k < 2 ^ 32 :=
    calc b.toNat * 2 ^ k < 2 ^ 8 * 2 ^ k := Nat.mul_lt_mul_of_pos_right hb (by positivity)
      _ = 2 ^ (8 + k) := (pow_add 2 8 k).symm
      _ ≤ 2 ^ 32 := Nat.pow_le_pow_right (by decide) (by omega)
  rw [BitVec.toNat_shiftLeft, BitVec.toNat_setWidth, Nat.shiftLeft_eq, Nat.mod_eq_of_lt (a := b.toNat) (by omega),
    Nat.mod_eq_of_lt this]

theorem or_eq_add {a b k : Nat} (hb : b < 2 ^ k) (ha : 2 ^ k ∣ a) : a ||| b = a + b := by
  obtain ⟨c, rfl⟩ := ha
  exact (Nat.two_pow_add_eq_or_of_lt hb c).symm

/-- The number of a colour word (R13). -/
theorem colourWord_toNat (c : Colour) : (colourWord c).toNat = c.r.toNat * 2 ^ 16 + c.g.toNat * 2 ^ 8 + c.b.toNat := by
  have hg := c.g.isLt
  have hb := c.b.isLt
  have hb0 : (c.b.setWidth 32).toNat = c.b.toNat := by rw [BitVec.toNat_setWidth, Nat.mod_eq_of_lt (by omega)]
  rw [colourWord, BitVec.toNat_or, BitVec.toNat_or, shiftLeft_setWidth_toNat _ (by decide), shiftLeft_setWidth_toNat _ (by decide),
    hb0, or_eq_add (a := c.r.toNat * 2 ^ 16) (k := 16) (by omega) ⟨c.r.toNat, by omega⟩,
    or_eq_add (b := c.b.toNat) (k := 8) (by omega) ⟨c.r.toNat * 2 ^ 8 + c.g.toNat, by ring⟩]

/-- R37: bits [31:24] of a colour word are 0. -/
theorem colourWord_lt (c : Colour) : (colourWord c).toNat < 2 ^ 24 := by
  have hr := c.r.isLt
  have hg := c.g.isLt
  have hb := c.b.isLt
  rw [colourWord_toNat]
  omega

theorem colourWord_black : colourWord black = 0 := by decide

/-- The number of four bytes read as a word. -/
theorem wordOfBytes_toNat (b0 b1 b2 b3 : Byte) :
    (wordOfBytes b0 b1 b2 b3).toNat = b3.toNat * 2 ^ 24 + b2.toNat * 2 ^ 16 + b1.toNat * 2 ^ 8 + b0.toNat := by
  have h0 := b0.isLt
  have h1 := b1.isLt
  have h2 := b2.isLt
  have hb0 : (b0.setWidth 32).toNat = b0.toNat := by rw [BitVec.toNat_setWidth, Nat.mod_eq_of_lt (by omega)]
  rw [wordOfBytes, BitVec.toNat_or, BitVec.toNat_or, BitVec.toNat_or, shiftLeft_setWidth_toNat _ (by decide),
    shiftLeft_setWidth_toNat _ (by decide), shiftLeft_setWidth_toNat _ (by decide), hb0,
    or_eq_add (a := b3.toNat * 2 ^ 24) (k := 24) (by omega) ⟨b3.toNat, by omega⟩,
    or_eq_add (b := b1.toNat * 2 ^ 8) (k := 16) (by omega) ⟨b3.toNat * 2 ^ 8 + b2.toNat, by ring⟩,
    or_eq_add (b := b0.toNat) (k := 8) (by omega) ⟨b3.toNat * 2 ^ 16 + b2.toNat * 2 ^ 8 + b1.toNat, by ring⟩]

end Sys2Proof.Machine
end

