-- ==== Sys2Proof/Tests/Slice0.lean ====
section
/-!
SUPPORT. Checks of the model against words written out in spec/: ill-formed terms that the checks refuse, the command words of
30_encoding.md R91, vectors of 95_test_vectors.md (named V<n> there), and for each statement with hypotheses a concrete state and
operands that meet them.
-/

namespace Sys2Proof.Tests

open Sys2Proof Sys2Proof.Machine

/-- The capacities that 95_test_vectors.md asks for at least, and a table whose entries differ. -/
def roomy : Params where
  ct := fun k => ⟨k.setWidth 8, 0x10, 0x80⟩
  inCap := 512
  rbCap := 1024
  fbCap := 9216
  maxDim := 384
  hostBusEndian := .little

/-- IN holding `bs` from address 0. -/
def inputOf (bs : List Byte) : Memory := bs.zipIdx.map fun c => (c.2, c.1)

/-- The reset state with bytes in IN and IN_LEN their number. -/
def loaded (bs : List Byte) : State :=
  { State.reset with inMem := inputOf bs, inLen := BitVec.ofNat 32 bs.length }

/-- Every byte that `loaded` lists is written. -/
theorem loaded_written (bs : List Byte) {a : Nat} (h : a < bs.length) : ((loaded bs).inMem.read a).isSome = true := by
  have key : ∀ (bs : List Byte) (k j : Nat), j < bs.length →
      (Memory.read ((bs.zipIdx k).map fun c => (c.2, c.1)) (k + j)).isSome = true := by
    intro bs
    induction bs with
    | nil => intro k j hj; cases hj
    | cons b bs ih =>
      intro k j hj
      simp only [List.zipIdx_cons, List.map_cons, Memory.read]
      cases j with
      | zero => simp
      | succ j =>
        rw [if_neg (by omega), show k + (j + 1) = k + 1 + j by omega]
        exact ih (k + 1) j (by simpa using hj)
  simpa [loaded, inputOf] using key bs 0 a h

/-- A record whose planes are 8 bytes each. -/
def record (low high : List Byte) : List Byte := low ++ high

/-- A row of CIG as numbers. -/
def row (s : State) (y : Nat) : List Nat := (List.range 8).map fun x => (cell s.cig y x).toNat

/-! ## What the checks refuse -/

theorem test_op_zero_undefined : opDefined 0x00000000#32 = false := by decide

theorem test_op_five_undefined : opDefined 0x00000005#32 = false := by decide

theorem test_reserved_field_refused : rsvZero 0x00000011#32 = false ∧ wordWellFormed 0x80000001#32 = false := by decide

theorem test_params_roomy : roomy.wellFormed = true := by decide

theorem test_params_small_input : Params.wellFormed { roomy with inCap := 15 } = false := by decide

theorem test_params_small_block : Params.wellFormed { roomy with rbCap := 63 } = false := by decide

theorem test_params_small_sheet : Params.wellFormed { roomy with fbCap := 63 } = false := by decide

theorem test_params_small_side : Params.wellFormed { roomy with maxDim := 7 } = false := by decide

theorem test_params_large_side : Params.wellFormed { roomy with maxDim := 2 ^ 32 } = false := by decide

theorem test_memory_unsorted : Memory.wf [(2, 0), (1, 0)] = false ∧ Memory.wf [(1, 0), (1, 0)] = false := by decide

theorem test_program_without_wait :
    waitsForCommands [.wr 0x00 1, .rd 0x38] = false ∧ waitsForCommands [.wr 0x0A 1] = false := by decide

/-! ## Decoding, from the bits of 30_encoding.md R90 and R91 -/

theorem test_decode_word : decode 0b00000000000000000000000000000001#32 = .command .decode := by decide

theorem test_resolve_word : decode 0b00000000000000000000000000000010#32 = .command .resolve := by decide

theorem test_raster_word : decode 0b00000000000000000000000000000011#32 = .command .raster := by decide

theorem test_compose_word : decode 0b00000000000000000000000000000100#32 = .command .compose := by decide

/-- V50 to V54. -/
theorem test_illegal_words :
    [0x00000000#32, 0x00000005#32, 0x0000000F#32, 0x00000011#32, 0x80000001#32].all
      (fun w => decode w = .illegalCommand) = true := by decide

/-- V50: STATUS after BLOCK's step on an illegal word is 0x104. -/
theorem test_illegal_status :
    ((State.reset.startCommand 0).raiseFault .illegalCommand 0 0).status.word = 0x104 := by decide

/-- R69: big-endian bytes of DECODE's word. -/
theorem test_bus_bytes : decodeBytes .big [0, 0, 0, 1] = .command .decode ∧ decodeBytes .little [0, 0, 0, 1] = .illegalCommand ∧
    decodeBytes .little [1, 0, 0] = .illegalCommand := by decide

/-- The triples of the lines 2, 4, 5, 9 and 10 of program P1, and of the palette of P2. -/
theorem test_host_encodings :
    (HostOp.wtile 1 [0xAA, 0]).map HostOp.encoding = [some (.input, 16, .byte 0xAA), some (.input, 17, .byte 0)] ∧
    (HostOp.wr Reg.tileIndex.offset 1).encoding = some (.reg, 0x0C, .word 1) ∧
    (HostOp.command .decode).map HostOp.encoding = [some (.reg, 0x00, .word 1), none] ∧
    (HostOp.rd Reg.status.offset).encoding = some (.reg, 0x04, .read) ∧ (HostOp.rdrb 2).encoding = some (.rb, 2, .read) ∧
    (HostOp.palette 0x4F 0x16 0x27 0x18).map HostOp.encoding = [some (.reg, 0x18, .word 0x4F), some (.reg, 0x1C, .word 0x16),
      some (.reg, 0x20, .word 0x27), some (.reg, 0x24, .word 0x18)] :=
  ⟨rfl, rfl, rfl, rfl, rfl, rfl⟩

/-! ## One step of each command -/

/-- V60. -/
theorem test_decode_whole_tile :
    let s := decodeCommand roomy (loaded (record [0x41, 0xC2, 0x44, 0x48, 0x10, 0x20, 0x40, 0x80]
      [0x01, 0x02, 0x04, 0x08, 0x16, 0x21, 0x42, 0x87]))
    s.status.word = 0x12 ∧ (List.range 8).map (row s) =
      [[0, 1, 0, 0, 0, 0, 0, 3], [1, 1, 0, 0, 0, 0, 3, 0], [0, 1, 0, 0, 0, 3, 0, 0], [0, 1, 0, 0, 3, 0, 0, 0],
       [0, 0, 0, 3, 0, 2, 2, 0], [0, 0, 3, 0, 0, 0, 0, 2], [0, 3, 0, 0, 0, 0, 2, 0], [3, 0, 0, 0, 0, 2, 2, 2]] := by
  decide

/-- V61, V63, V64: the range and capacity sizes. -/
theorem test_decode_faults :
    let range := decodeCommand roomy { loaded (List.replicate 31 0) with tileIndex := 1 }
    let wide := decodeCommand roomy { State.reset with inLen := 16, tileIndex := 0xFFFFFFFF }
    let long := decodeCommand { roomy with inCap := 64 } { State.reset with inLen := 65, tileIndex := 9 }
    (range.status.word, range.errReq, range.errAvail) = (0x204, 32, 31) ∧ (wide.errReq, wide.errAvail) = (0xFFFFFFFF, 16) ∧
      (long.status.word, long.errReq, long.errAvail) = (0x604, 65, 64) := by
  decide

/-- V11. -/
theorem test_resolve_aliases :
    let s := resolveCommand roomy { State.reset with psel := #v[64, 67, 0x7F, 0xFFFFFFFF] }
    s.status.word = 0x22 ∧ s.rpal = #v[roomy.ct 0x00, roomy.ct 0x03, roomy.ct 0x3F, roomy.ct 0x3F] := by
  decide

/-- V12, V13. -/
theorem test_resolve_order :
    resolve roomy #v[0x40, 0x100, 0xFFFFFFC0, 0x3F] = #v[roomy.ct 0x00, roomy.ct 0x00, roomy.ct 0x00, roomy.ct 0x3F] ∧
      resolve roomy #v[3, 2, 1, 0] = #v[roomy.ct 3, roomy.ct 2, roomy.ct 1, roomy.ct 0] := by
  decide

/-- CIG holding V6's grid, and the resolved reset palette. -/
def coloured (scale : Word) : State :=
  let s := loaded (record [0xAA, 0, 0, 0, 0, 0, 0, 0] [0xCC, 0, 0, 0, 0, 0, 0, 0])
  { resolveCommand roomy (decodeCommand roomy s) with scale := scale }

set_option maxRecDepth 20000 in
set_option maxRecDepth 20000 in
/-- V22's first row and its fourth. -/
theorem test_raster_scale_three :
    let s := rasterCommand roomy (coloured 3)
    s.status.word = 0x72 ∧ s.rbDim = 24 ∧ [0, 2, 3, 5, 6, 9, 12, 23, 24, 71, 72].map (fun i => s.rb[i]?) =
      [0x30, 0x30, 0x28, 0x28, 0x20, 0x0F, 0x30, 0x0F, 0x30, 0x0F, 0x0F].map (fun k => some (roomy.ct k)) := by
  decide

/-- V23, V26, V27, V28. -/
theorem test_raster_faults :
    let tight : Params := { roomy with maxDim := 64 }
    (rasterCommand tight { State.reset with scale := 0 }).status.word = 0x504 ∧
      (rasterCommand tight (coloured 0x80000000)).status.word = 0x334 ∧
      ((rasterCommand tight (coloured 9)).errReq, (rasterCommand tight (coloured 9)).errAvail) = (72, 64) ∧
      ((rasterCommand tight (coloured 5)).errReq, (rasterCommand tight (coloured 5)).errAvail) = (1600, 1024) := by
  decide

set_option maxRecDepth 20000 in
set_option maxRecDepth 20000 in
/-- V33: three tiles, two per row. -/
theorem test_compose_three_tiles :
    let t1 := record (List.replicate 8 0xFF) (List.replicate 8 0)
    let t2 := record (List.replicate 8 0) (List.replicate 8 0xFF)
    let s := composeCommand roomy { loaded (t1 ++ t2 ++ List.replicate 16 0xFF) with tilesPerRow := 2 }
    (s.fbWidth, s.fbHeight, s.tileCount, s.status.word) = (16, 16, 3, 0x82) ∧
      [0, 8, 128, 136, 255].map (fun i => s.fb[i]?) =
        [some (roomy.ct 0x20), some (roomy.ct 0x28), some (roomy.ct 0x30), some black, some black] := by
  decide

/-- V35, V37, V40, V41, V42. -/
theorem test_compose_corners :
    let sizes (s : State) : Nat × Nat × Nat := (s.status.errCode.code.toNat, s.errReq.toNat, s.errAvail.toNat)
    let narrow : Params := { roomy with maxDim := 64 }
    let empty := composeCommand roomy (loaded (List.replicate 15 0))
    (empty.fbWidth, empty.fbHeight, empty.status.word) = (128, 0, 0x8A) ∧
      (composeCommand roomy { State.reset with inLen := 16, tilesPerRow := 0, scale := 0 }).status.word = 0x404 ∧
      sizes (composeCommand { roomy with fbCap := 1000 } { State.reset with inLen := 16 }) = (6, 1024, 1000) ∧
      sizes (composeCommand narrow { State.reset with inLen := 16, tilesPerRow := 9 }) = (6, 72, 64) ∧
      sizes (composeCommand narrow { State.reset with inLen := 144, tilesPerRow := 1 }) = (6, 72, 64) := by
  decide

/-! ## Each statement's hypotheses are met

A capacity that only larger hardware reaches is met on parameters of the test's own; `Config.params` is only known to keep R9. -/

/-- The reset state with a program for HOST. -/
def idleHost (ops : List HostOp) : State := { State.reset with hostOps := ops }

/-- A pending command, `d` moves before BLOCK's step. -/
def pendingHost (w : Word) (d : Nat) (ops : List HostOp) : State :=
  { State.reset with pending := w, status := { Status.reset with busy := true }, delay := d, hostOps := ops }

/-- One whole tile in IN, one tile per row, and valid CIG and RPAL: every command succeeds on it on the smallest hardware of R9. -/
def oneTile : State :=
  { loaded (List.replicate 16 0x5A) with tilesPerRow := 1, status := { Status.reset with cigValid := true, rpalValid := true } }

/-- A state every output of which is valid: a scale-1 block and an empty sheet, one byte of IN. -/
def finished (ops : List HostOp) : State :=
  { State.reset with
    status := { Status.reset with done := true, cigValid := true, rpalValid := true, rbValid := true, fbValid := true }
    rbDim := 8
    rb := List.replicate 64 black
    fbWidth := 8
    inMem := [(0, 0x41)]
    hostOps := ops }

/-- The same with a one-tile sheet. -/
def finishedSheet (ops : List HostOp) : State :=
  { finished ops with fbHeight := 8, tileCount := 1, fb := List.replicate 64 black }

/-- The same with no pixel in RB, a state no run reaches, so that every index of RB is beyond the extent. -/
def noBlock (ops : List HostOp) : State := { finished ops with rbDim := 0, rb := [] }

theorem finished_statusOk (ops : List HostOp) : StatusOk (finished ops) := by
  constructor <;> simp [finished, Status.reset, State.reset]

theorem finished_inv (ops : List HostOp) : Inv Config.params (finished ops) := by
  obtain ⟨h1, h2, h3, h4, h5⟩ := params_bounds
  refine ⟨⟨by rfl, by simp [finished]; omega⟩, ⟨by rfl, h2, ⟨h4, 1, by rfl⟩, by rfl, Nat.zero_le _,
    ⟨h4, Nat.zero_le _, ⟨1, by rfl⟩, ⟨0, by rfl⟩⟩, Nat.zero_le _⟩, finished_statusOk ops⟩

theorem finishedSheet_inv (ops : List HostOp) : Inv Config.params (finishedSheet ops) := by
  obtain ⟨h1, h2, h3, h4, h5⟩ := params_bounds
  refine ⟨(finished_inv ops).1, ⟨by rfl, h2, ⟨h4, 1, by rfl⟩, by rfl, h3, ⟨h4, h4, ⟨1, by rfl⟩, ⟨1, by rfl⟩⟩, h1⟩, ?_⟩
  constructor <;> simp [finishedSheet, finished, Status.reset, State.reset]

theorem noBlock_inv (ops : List HostOp) : Inv Config.params (noBlock ops) := by
  obtain ⟨h1, h2, h3, h4, h5⟩ := params_bounds
  refine ⟨(finished_inv ops).1, ⟨by rfl, Nat.zero_le _, ⟨Nat.zero_le _, 0, by rfl⟩, by rfl, Nat.zero_le _,
    ⟨h4, Nat.zero_le _, ⟨1, by rfl⟩, ⟨0, by rfl⟩⟩, Nat.zero_le _⟩, ?_⟩
  constructor <;> simp [noBlock, finished, Status.reset, State.reset]

/-- `oneTile` passes COMPOSE's checks on any hardware. -/
theorem oneTile_fits : SheetFits Config.params oneTile 1 1 := by
  obtain ⟨h1, h2, h3, h4, h5⟩ := params_bounds
  exact ⟨by rfl, by rfl, by omega, by omega, h1, h4, h4, h3⟩

/-- HOST has written the tile. -/
theorem oneTile_written : ∀ i, InputsWritten i oneTile := by
  intro i
  cases i with
  | decode => exact fun k hk => loaded_written _ (by simpa [oneTile, loaded, State.reset] using hk)
  | resolve => trivial
  | raster => trivial
  | compose => exact fun a ha => loaded_written _ ha

/-- IN_LEN covers one tile of which HOST has written no byte. -/
def unwritten : State := { State.reset with inLen := 16, tilesPerRow := 1 }

theorem unwritten_decode : ¬ InputsWritten .decode unwritten := fun h => by cases h 0 (by decide)

theorem unwritten_compose : ¬ InputsWritten .compose unwritten := fun h => by cases h 0 (by decide)

theorem exec_compose_oneTile : ∃ t, exec .compose oneTile = .next t ∧ t.status.errCode = .none :=
  ⟨_, rfl, by rw [composeCommand_of_fits oneTile_fits]; rfl⟩

theorem rasterCommand_oneTile : (rasterCommand Config.params oneTile).status.errCode = .none := by
  obtain ⟨h1, h2, h3, h4, h5⟩ := params_bounds
  rw [rasterCommand_of_fits (scale := 1) rfl rfl rfl (by omega) h4 h2]
  rfl

theorem exec_decode_oneTile :
    exec .decode oneTile = .next ((oneTile.setCig (decodeTile oneTile 0)).completeSuccess false) :=
  congrArg Host.Outcome.next (decodeCommand_of_fits (s := oneTile) params_bounds.1 (by decide))

theorem test_witness_IllegalWordsFault :
    [0x00, 0x05, 0x0F, 0x10, 0xFFFFFFF1].all (fun w => (pendingHost w 0 []).delay = 0 ∧ (pendingHost w 0 []).status.busy ∧
      (w.toNat % 16 = 0 ∨ 5 ≤ w.toNat % 16 ∨ w.toNat / 16 ≠ 0)) = true ∧
    [0x01, 0x04].all (fun w : Word => ¬ (w.toNat % 16 = 0 ∨ 5 ≤ w.toNat % 16 ∨ w.toNat / 16 ≠ 0)) = true := by
  decide

theorem test_witness_BlockStepRunsThePendingCommand :
    ∀ i, BlockMoves (pendingHost (encode i) 0 []) ∧ decode (pendingHost (encode i) 0 []).pending = .command i := by
  intro i
  cases i <;> exact ⟨⟨rfl, rfl⟩, rfl⟩

theorem test_witness_PlacedWordRunsNext :
    decodeTableWord 32 1 = some .decode ∧ decodeTableWord 32 2 = some .resolve ∧ decodeTableWord 32 3 = some .raster ∧
    decodeTableWord 32 4 = some .compose := by
  decide

theorem test_witness_CmdWriteStartsACommand :
    (idleHost [.wr 0x00 0x13]).status.busy = false ∧ (idleHost [.wr 0x00 0x13]).hostOps = .wr 0x00 0x13 :: [] := ⟨rfl, rfl⟩

theorem test_witness_StatusReadWhilePending :
    (idleHost [.wr 0x00 3, .rd 0x04]).status.busy = false ∧
    (idleHost [.wr 0x00 3, .rd 0x04]).hostOps = .wr 0x00 3 :: .rd 0x04 :: [] := ⟨rfl, rfl⟩

theorem test_witness_ControlRegistersStoreWhatIsWritten :
    [0x08, 0x0C, 0x10, 0x14, 0x18, 0x1C, 0x20, 0x24].all (fun off =>
      off ∈ [0x08, 0x0C, 0x10, 0x14, 0x18, 0x1C, 0x20, 0x24] ∧ (idleHost [.wr off 0xFFFFFFFF, .rd off]).status.busy = false) = true := by
  decide

theorem test_witness_RegisterMapReads :
    (idleHost [.rd 0x10]).status.busy = false ∧ (0x10, (idleHost [.rd 0x10]).tilesPerRow) ∈ [(0x0C, 0#32), (0x10, 16#32)] ∧
    (finished [.rd 0x34]).status.rpalValid = true ∧ 0x34 = 0x28 + 4 * (3 : Fin 4).val := by
  decide

theorem test_witness_ReservedOffsetsAndBits :
    HostMoves (idleHost [.rd (4 * 0x14)]) (idleHost [.rd (4 * 0x14)]) ∧
    HostMoves (pendingHost 1 1 [.rd (4 * 0x3F)]) (pendingHost 1 0 [.rd (4 * 0x3F)]) ∧
    HostMoves (pendingHost 1 1 [.wr (4 * 0x3F) 7]) (pendingHost 1 0 [.wr (4 * 0x3F) 7]) ∧
    BlockMoves (pendingHost 0x13 0 []) ∧ 16 ≤ (pendingHost 0x10 0 []).pending.toNat ∧
    (finished []).readReg (0x28 + 4 * (0 : Fin 4).val) = .value 0 :=
  ⟨.inl ⟨rfl, rfl⟩, .inr ⟨rfl, 0, rfl, rfl⟩, .inr ⟨rfl, 0, rfl, rfl⟩, ⟨rfl, rfl⟩, by decide, by decide⟩

theorem test_witness_IgnoredWrites :
    HostMoves (pendingHost 1 1 [.wr 0x4C 7]) (pendingHost 1 0 [.wr 0x4C 7]) ∧
    0x4C ∈ [0x04, 0x28, 0x2C, 0x30, 0x34, 0x38, 0x3C, 0x40, 0x44, 0x48, 0x4C] ∧
    HostMoves (idleHost [.wrfb 0 7]) (idleHost [.wrfb 0 7]) ∧ 0x100 ≤ 4 * 0x40 ∧
    HostMoves (idleHost [.wb Config.params.inCap 7]) (idleHost [.wb Config.params.inCap 7]) ∧
    (idleHost [.wb Config.params.inCap 7]).status.busy = false :=
  ⟨.inr ⟨rfl, 0, rfl, rfl⟩, by decide, .inl ⟨rfl, rfl⟩, by decide, .inl ⟨rfl, rfl⟩, rfl⟩

theorem test_witness_InputWriteThenRead :
    0 < Config.params.inCap ∧ Config.params.inCap - 1 < Config.params.inCap ∧
    (idleHost [.wb 0 7, .rb 0]).status.busy = false ∧ (idleHost [.wb 0 7, .rb 0]).hostOps = .wb 0 7 :: .rb 0 :: [] := by
  have := params_bounds.1
  exact ⟨by omega, by omega, rfl, rfl⟩

theorem test_witness_ColourTableAndGridReads :
    (idleHost [.rdct 63]).status.busy = false ∧ (finished [.rdcig (8 * 7 + 7)]).status.busy = false ∧
    (finished [.rdcig (8 * 7 + 7)]).status.cigValid = true ∧ (finished [.rdcig (8 * 7 + 7)]).hostOps = .rdcig (8 * 7 + 7) :: [] :=
  ⟨rfl, rfl, rfl, rfl⟩

theorem test_witness_PixelReadsAreRowMajor :
    (Inv Config.params (finishedSheet [.rdrb (7 * 8 + 7)]) ∧ (finishedSheet [.rdrb (7 * 8 + 7)]).status.rbValid = true ∧
      7 < (finishedSheet [.rdrb (7 * 8 + 7)]).rbDim.toNat) ∧
    (Inv Config.params (finishedSheet [.rdfb (7 * 8 + 7)]) ∧ (finishedSheet [.rdfb (7 * 8 + 7)]).status.fbValid = true ∧
      7 < (finishedSheet [.rdfb (7 * 8 + 7)]).fbHeight.toNat ∧ 7 < (finishedSheet [.rdfb (7 * 8 + 7)]).fbWidth.toNat) :=
  ⟨⟨finishedSheet_inv _, rfl, by decide⟩, ⟨finishedSheet_inv _, rfl, by decide, by decide⟩⟩

theorem test_witness_OutOfRangeReadsReturnZero :
    (idleHost [.rd (4 * 0x40)]).status.busy = false ∧ 0x100 ≤ 4 * 0x40 ∧
    (idleHost [.rb Config.params.inCap]).hostOps = .rb Config.params.inCap :: [] ∧
    (idleHost [.rdct 64]).hostOps = .rdct 64 :: [] ∧ (idleHost [.rdcig 64]).hostOps = .rdcig 64 :: [] ∧
    (idleHost [.rdrb Config.params.rbCap]).hostOps = .rdrb Config.params.rbCap :: [] ∧
    (idleHost [.rdfb Config.params.fbCap]).hostOps = .rdfb Config.params.fbCap :: [] :=
  ⟨rfl, by decide, rfl, rfl, rfl, rfl, rfl⟩

theorem test_witness_ReadsBeyondTheExtentComplete :
    (Inv Config.params (noBlock [.rdrb 0]) ∧ (noBlock [.rdrb 0]).status.rbValid = true ∧
      (noBlock [.rdrb 0]).rbDim.toNat * (noBlock [.rdrb 0]).rbDim.toNat ≤ 0 ∧ 0 < Config.params.rbCap) ∧
    (Inv Config.params (finished [.rdfb 63]) ∧ (finished [.rdfb 63]).status.fbValid = true ∧
      (finished [.rdfb 63]).fbWidth.toNat * (finished [.rdfb 63]).fbHeight.toNat ≤ 63 ∧ 63 < Config.params.fbCap) := by
  obtain ⟨h1, h2, h3, h4, h5⟩ := params_bounds
  exact ⟨⟨noBlock_inv _, rfl, by decide, by omega⟩, ⟨finished_inv _, rfl, by decide, by omega⟩⟩

theorem test_witness_UnspecifiedHostReadsFault :
    State.reset.status.cigValid = false ∧ State.reset.status.rpalValid = false ∧ State.reset.status.rbValid = false ∧
    State.reset.status.fbValid = false ∧ 0 < Config.params.rbCap ∧ 0 < Config.params.fbCap ∧
    Config.params.inCap - 1 < Config.params.inCap ∧ State.reset.inMem.read (Config.params.inCap - 1) = none ∧
    (idleHost [.rd (0x28 + 4 * 3)]).hostOps = .rd (0x28 + 4 * 3) :: [] := by
  obtain ⟨h1, h2, h3, h4, h5⟩ := params_bounds
  exact ⟨rfl, rfl, rfl, rfl, by omega, by omega, by omega, rfl, rfl⟩

theorem test_witness_BrokenHostDutiesAreRefused :
    HostMoves (pendingHost 1 1 [.wr 0x00 2]) (pendingHost 1 0 [.wr 0x00 2]) ∧ (pendingHost 1 1 []).status.busy = true ∧
    HostMoves (pendingHost 1 1 [.wr 0x24 2]) (pendingHost 1 0 [.wr 0x24 2]) ∧
    HostMoves (pendingHost 1 1 [.rd 0x28]) (pendingHost 1 0 [.rd 0x28]) ∧
    HostMoves (pendingHost 1 1 [.rb 0]) (pendingHost 1 0 [.rb 0]) ∧
    HostMoves (idleHost [.rd 0x4F]) (idleHost [.rd 0x4F]) ∧ 0x4F % 4 ≠ 0 :=
  ⟨.inr ⟨rfl, 0, rfl, rfl⟩, rfl, .inr ⟨rfl, 0, rfl, rfl⟩, .inr ⟨rfl, 0, rfl, rfl⟩, .inr ⟨rfl, 0, rfl, rfl⟩, .inl ⟨rfl, rfl⟩, by decide⟩

theorem test_witness_ReadsHaveNoSideEffect :
    HostMoves (finished [.rb 0]) (finished [.rb 0]) ∧ (finished [.rb 0]).hostOps = .rb 0 :: [] ∧
    step (finished [.rb 0]) = .next { finished [] with hostReads := [0x41] } ∧
    HostMoves (pendingHost 1 1 [.rd 0x04]) (pendingHost 1 0 [.rd 0x04]) ∧
    step (pendingHost 1 1 [.rd 0x04]) = .next { pendingHost 1 0 [] with hostReads := [0x01] } := by
  refine ⟨.inl ⟨rfl, rfl⟩, rfl, ?_, .inr ⟨rfl, 0, rfl, rfl⟩, by rfl⟩
  have h : (0 : Nat) < Config.params.inCap := by have := params_bounds.1; omega
  rw [step_of_hostOp (.inl ⟨rfl, rfl⟩) rfl rfl]
  simp [HostOp.perform, State.readIn, h, finished, Memory.read, State.answer, State.reset]

theorem test_witness_WaitPollsUntilNotBusy :
    HostMoves (pendingHost 1 1 [.wait]) (pendingHost 1 0 [.wait]) ∧ (pendingHost 1 1 [.wait]).hostOps = .wait :: [] ∧
    HostMoves (idleHost [.wait]) (idleHost [.wait]) ∧ (idleHost [.wait]).hostOps = .wait :: [] :=
  ⟨.inr ⟨rfl, 0, rfl, rfl⟩, rfl, .inl ⟨rfl, rfl⟩, rfl⟩

theorem test_witness_IdleKeepsEverything : (finished []).status.busy = false ∧ (finished []).hostOps = [] := ⟨rfl, rfl⟩

theorem test_witness_ResetFromAnyState :
    HostMoves (finished [.reset]) (finished [.reset]) ∧ (finished [.reset]).hostOps = .reset :: [] ∧
    HostMoves (pendingHost 4 1 [.reset]) (pendingHost 4 0 [.reset]) ∧ (pendingHost 4 1 [.reset]).hostOps = .reset :: [] :=
  ⟨.inl ⟨rfl, rfl⟩, rfl, .inr ⟨rfl, 0, rfl, rfl⟩, rfl⟩

theorem test_witness_DecodeCompletes :
    oneTile.inLen.toNat ≤ Config.params.inCap ∧ (oneTile.tileIndex.toNat + 1) * 16 ≤ oneTile.inLen.toNat ∧
    InputsWritten .decode oneTile :=
  ⟨params_bounds.1, by decide, oneTile_written _⟩

/-- The second check of the rule and both cases past the checks on the hardware's own capacities; the first check is V64's above. -/
theorem test_witness_DecodeWholeRule :
    ¬ (loaded (List.replicate 15 0)).inLen.toNat > Config.params.inCap ∧
    (loaded (List.replicate 15 0)).inLen.toNat < ((loaded (List.replicate 15 0)).tileIndex.toNat + 1) * 16 ∧
    InputsWritten .decode oneTile ∧ ¬ InputsWritten .decode unwritten ∧
    exec .decode unwritten = .fault .unwrittenInputRead := by
  have := params_bounds.1
  refine ⟨Nat.not_lt.mpr (show 15 ≤ _ by omega), by decide, oneTile_written _, unwritten_decode, ?_⟩
  exact exec_of_unwritten unwritten_decode
    (congrArg (·.status.errCode) (decodeCommand_of_fits (p := Config.params) (s := unwritten) params_bounds.1 (by decide)))

theorem test_witness_DecodedPixelDependsOnItsTwoBits :
    let s := { State.reset with inMem := State.reset.inMem.write (16 * 2 + 8 + 7) 0x01 }
    7 ≤ 7 ∧ (7, 6) ≠ (7, 7) ∧ s.inByte (16 * 2 + 8 + 7) = 0x01 := by
  decide

theorem test_witness_DecodeReadsOnlyItsTile :
    let u := { oneTile with inMem := oneTile.inMem.write 16 0xFF, scale := 3 }
    oneTile.tileIndex = u.tileIndex ∧ oneTile.inLen = u.inLen ∧
    (∀ k, k < 16 → oneTile.inByte (16 * oneTile.tileIndex.toNat + k) = u.inByte (16 * u.tileIndex.toNat + k)) ∧
    ∃ t v, exec .decode oneTile = .next t ∧ exec .decode u = .next v ∧ t.status.errCode = .none := by
  exact ⟨rfl, rfl, by decide, _, _, exec_decode_oneTile, rfl, rfl⟩

theorem test_witness_PaletteIndicesAlias :
    let u := { State.reset with psel := #v[0x4F, 0xFFFFFFE0, 0x68, 0x30] }
    (∀ n : Fin 4, State.reset.psel[n].toNat % 64 = u.psel[n].toNat % 64) ∧
    ∃ t v, exec .resolve State.reset = .next t ∧ exec .resolve u = .next v :=
  ⟨by decide, _, _, rfl, rfl⟩

theorem test_witness_RasterCompletes :
    oneTile.status.cigValid = true ∧ oneTile.status.rpalValid = true ∧ oneTile.scale.toInt = ((1 : Nat) : Int) ∧ 1 ≤ 1 ∧
    8 * 1 ≤ Config.params.maxDim ∧ (8 * 1) * (8 * 1) ≤ Config.params.rbCap :=
  ⟨rfl, rfl, by decide, Nat.le_refl 1, params_bounds.2.2.2.1, params_bounds.2.1⟩

/-- The first three checks of the rule on the hardware's own capacities; the fourth is V28's above. -/
theorem test_witness_RasterWholeRule :
    State.reset.status.cigValid = false ∧ ({ oneTile with scale := 0 } : State).scale.toInt < 1 ∧
    8 * ({ oneTile with scale := 0x7FFFFFFF } : State).scale.toInt.toNat > Config.params.maxDim := by
  have := params_bounds.2.2.2.2
  exact ⟨rfl, by decide, lt_of_le_of_lt this (by decide)⟩

theorem test_witness_RasterSquaresAreSolid :
    ∃ t, exec .raster oneTile = .next t ∧ t.status.errCode = .none ∧ 7 * oneTile.scale.toInt.toNat ≤ 7 ∧
      7 < (7 + 1) * oneTile.scale.toInt.toNat :=
  ⟨_, rfl, rasterCommand_oneTile, by decide, by decide⟩

/-- The first clause at scale 3 and the last pixel of the last square, the second at scale 1. -/
theorem test_witness_RasterScaleInvariance :
    (1 ≤ 3 ∧ 7 ≤ 7 ∧ 2 < 3) ∧ ∃ t v, exec .raster oneTile = .next t ∧ exec .raster { oneTile with scale := 1 } = .next v ∧ t.status.errCode = .none ∧
      v.status.errCode = .none ∧ 0 < oneTile.scale.toInt.toNat :=
  ⟨by decide, _, _, rfl, rfl, rasterCommand_oneTile, rasterCommand_oneTile, by decide⟩

theorem test_witness_RasterReadsOnlyItsOperands :
    let u := { oneTile with tileIndex := 9, psel := #v[1, 2, 3, 4] }
    oneTile.cig = u.cig ∧ oneTile.rpal = u.rpal ∧ oneTile.scale = u.scale ∧ oneTile.status.cigValid = u.status.cigValid ∧
    oneTile.status.rpalValid = u.status.rpalValid ∧
    ∃ t v, exec .raster oneTile = .next t ∧ exec .raster u = .next v ∧ t.status.errCode = .none :=
  ⟨rfl, rfl, rfl, rfl, rfl, _, _, rfl, rfl, rasterCommand_oneTile⟩

theorem test_witness_ComposeClosedForm :
    oneTile.tilesPerRow.toInt = ((1 : Nat) : Int) ∧ oneTile.scale.toInt = ((1 : Nat) : Int) ∧
    oneTile.inLen.toNat ≤ Config.params.inCap ∧ 1 * 8 * 1 ≤ Config.params.maxDim ∧
    ((oneTile.inLen.toNat / 16 + 1 - 1) / 1) * 8 * 1 ≤ Config.params.maxDim ∧
    1 * 8 * 1 * (((oneTile.inLen.toNat / 16 + 1 - 1) / 1) * 8 * 1) ≤ Config.params.fbCap ∧ InputsWritten .compose oneTile :=
  ⟨by decide, by decide, oneTile_fits.buffer, params_bounds.2.2.2.1, params_bounds.2.2.2.1, params_bounds.2.2.1, oneTile_written _⟩

/-- The second, third and fourth checks and both cases past the checks on the hardware's own capacities; the other checks are V40 to
V42's above. -/
theorem test_witness_ComposeChecksInOrder :
    ({ oneTile with tilesPerRow := 0 } : State).tilesPerRow.toInt < 1 ∧ ({ oneTile with scale := 0 } : State).scale.toInt < 1 ∧
    ({ oneTile with tilesPerRow := 0x7FFFFFFF } : State).tilesPerRow.toInt.toNat * (8 * oneTile.scale.toInt.toNat) >
      Config.params.maxDim ∧
    InputsWritten .compose oneTile ∧ ¬ InputsWritten .compose unwritten ∧
    exec .compose unwritten = .fault .unwrittenInputRead := by
  obtain ⟨h1, h2, h3, h4, h5⟩ := params_bounds
  have fits : SheetFits Config.params unwritten 1 1 := ⟨by rfl, by rfl, by omega, by omega, h1, h4, h4, h3⟩
  exact ⟨by decide, by decide, lt_of_le_of_lt h5 (by decide), oneTile_written _, unwritten_compose,
    exec_of_unwritten unwritten_compose (congrArg (·.status.errCode) (composeCommand_of_fits fits))⟩

theorem test_witness_TilesArePlacedRowMajor :
    ∃ t, exec .compose oneTile = .next t ∧ t.status.errCode = .none ∧ 0 < oneTile.inLen.toNat / 16 ∧
      7 < 8 * oneTile.scale.toInt.toNat :=
  ⟨_, rfl, by rw [composeCommand_of_fits oneTile_fits]; rfl, by decide, by decide⟩

/-- V30: the first column right of the one tile of a row of sixteen. -/
theorem test_witness_UncoveredPixelsAreBlack :
    let s := loaded (List.replicate 16 0xFF)
    (composeCommand roomy s).status.errCode = .none ∧ 0 < (composeCommand roomy s).fbHeight.toNat ∧
    8 < (composeCommand roomy s).fbWidth.toNat ∧
    (∀ i, i < s.inLen.toNat / 16 → ¬ ((i / 16) * 8 ≤ 0 ∧ 0 < (i / 16) * 8 + 8 ∧ (i % 16) * 8 ≤ 8 ∧ 8 < (i % 16) * 8 + 8)) ∧
    InputsWritten .compose s :=
  ⟨by decide, by decide, by decide, by decide, fun _ ha => loaded_written _ ha⟩

theorem test_witness_ComposeIsThePipelineOfTheOtherCommands :
    ∃ a b c t, 0 < oneTile.inLen.toNat / 16 ∧ exec .decode { oneTile with tileIndex := BitVec.ofNat 32 0 } = .next a ∧
      exec .resolve a = .next b ∧ exec .raster b = .next c ∧ exec .compose oneTile = .next t ∧ a.status.errCode = .none ∧
      c.status.errCode = .none ∧ t.status.errCode = .none := by
  obtain ⟨h1, h2, h3, h4, h5⟩ := params_bounds
  refine ⟨_, _, _, _, by decide, exec_decode_oneTile, rfl, rfl, rfl, rfl, ?_, by rw [composeCommand_of_fits oneTile_fits]; rfl⟩
  rw [rasterCommand_of_fits (scale := 1) rfl rfl rfl (by omega) h4 h2]
  rfl

theorem test_witness_PasteOrderDoesNotMatter : 1 ≤ 2 ∧ [2, 0, 1].Perm (List.range 3) := by decide

theorem test_witness_EmptySheet :
    ({ oneTile with inLen := 15 } : State).inLen.toNat < 16 ∧ ({ oneTile with inLen := 0 } : State).inLen.toNat < 16 ∧
    oneTile.tilesPerRow.toInt = ((1 : Nat) : Int) ∧ oneTile.scale.toInt = ((1 : Nat) : Int) ∧ 1 * 8 * 1 ≤ Config.params.maxDim :=
  ⟨by decide, by decide, by decide, by decide, params_bounds.2.2.2.1⟩

/-- V32: 272 bytes, sixteen tiles per row, at scale 1 and at scale 2. -/
theorem test_witness_SeventeenTilesMakeTwoRows :
    let s := loaded (List.replicate 272 0)
    s.inLen.toNat / 16 = 17 ∧ s.tilesPerRow.toInt = 16 ∧ s.scale.toInt = ((1 : Nat) : Int) ∧ s.inLen.toNat ≤ roomy.inCap ∧
    128 * 2 ≤ roomy.maxDim ∧ roomy.maxDim ≤ 2 ^ 32 - 1 ∧ (128 * 2) * (16 * 2) ≤ roomy.fbCap ∧ InputsWritten .compose s := by
  have e : (loaded (List.replicate 272 0)).inLen = 272 := congrArg (BitVec.ofNat 32) List.length_replicate
  refine ⟨by rw [e]; rfl, by rfl, by rfl, by rw [e]; decide, by decide, by decide, by decide, fun a ha => loaded_written _ ?_⟩
  rw [e] at ha
  rw [List.length_replicate]
  exact ha

/-- V31: 17 bytes in the reset layout. -/
theorem test_witness_TrailingByteWarns :
    let s := loaded (List.replicate 17 0)
    s.inLen = 17 ∧ s.tilesPerRow.toInt = ((16 : Nat) : Int) ∧ s.scale.toInt = ((1 : Nat) : Int) ∧ 17 ≤ roomy.inCap ∧
    16 * 8 * 1 ≤ roomy.maxDim ∧ 16 * 8 * 1 * (8 * 1) ≤ roomy.fbCap ∧ InputsWritten .compose s := by
  refine ⟨by rfl, by rfl, by rfl, by decide, by decide, by decide, fun a ha => loaded_written _ ?_⟩
  exact Nat.lt_of_lt_of_le ha (by decide)

theorem test_witness_ComposeLeavesTheSingleTileOutputs : ∃ t, exec .compose oneTile = .next t ∧ t.status.errCode = .none :=
  exec_compose_oneTile

theorem test_witness_FaultCheckOrder :
    InputsWritten .raster State.reset ∧ (∀ i, InputsWritten i oneTile) ∧ ¬ InputsWritten .decode unwritten ∧
    ¬ unwritten.inLen.toNat > Config.params.inCap ∧ ¬ unwritten.inLen.toNat < (unwritten.tileIndex.toNat + 1) * 16 :=
  ⟨trivial, oneTile_written, unwritten_decode, Nat.not_lt.mpr params_bounds.1, by decide⟩

theorem test_witness_EveryCommandEnds : ∀ w, BlockMoves (pendingHost w 0 []) := fun _ => ⟨rfl, rfl⟩

theorem test_witness_FaultsArePrecise :
    ∃ t, BlockMoves (pendingHost 3 0 []) ∧ step (pendingHost 3 0 []) = .next t ∧ t.status.errCode ≠ .none :=
  ⟨_, ⟨rfl, rfl⟩, rfl, by decide⟩

theorem test_witness_FaultedIsSticky :
    let s := { State.reset with status := { Status.reset with faulted := true } }
    s.status.faulted = true ∧ step s = .next s ∧ ∃ t, exec .resolve s = .next t ∧ t.status.done = true :=
  ⟨rfl, rfl, _, rfl, rfl⟩

theorem test_witness_ValidBitsAreClearedByResetOnly :
    step (finished [.wait]) = .next (finished []) ∧ (¬ ∃ rest, (finished [.wait]).hostOps = .reset :: rest) ∧
    BlockMoves (pendingHost 2 0 [.reset]) ∧ (∃ t, step (pendingHost 2 0 [.reset]) = .next t) ∧
    (finished [.wait]).status.cigValid = true ∧ (finished [.wait]).status.rpalValid = true ∧
    (finished [.wait]).status.rbValid = true ∧ (finished [.wait]).status.fbValid = true :=
  ⟨rfl, by simp [finished], ⟨rfl, rfl⟩, ⟨_, rfl⟩, rfl, rfl, rfl, rfl⟩

/-- V35's warning, one tile per row, on the hardware's own capacities. -/
theorem test_witness_WarnMeansTruncatedCompose :
    ∃ t, exec .compose { oneTile with inLen := 15 } = .next t ∧ t.status.warn = true := by
  obtain ⟨h1, h2, h3, h4, h5⟩ := params_bounds
  have fits : SheetFits Config.params { oneTile with inLen := 15 } 1 1 :=
    ⟨by rfl, by rfl, by omega, by omega, show 15 ≤ _ by omega, h4, Nat.zero_le _, Nat.zero_le _⟩
  exact ⟨_, rfl, by rw [composeCommand_of_fits fits]; rfl⟩

theorem test_witness_CommandsLeaveInputsAndHost : ∀ i, ∃ t, exec i oneTile = .next t := by
  intro i
  cases i <;> exact ⟨_, rfl⟩

theorem test_witness_CommandsWriteOnlyTheirOutputs :
    ∃ t, exec .compose oneTile = .next t ∧ t.status.errCode = .none ∧ Instr.compose ≠ .decode ∧ Instr.compose ≠ .resolve ∧
      Instr.compose ≠ .raster ∧ Instr.decode ≠ .compose := by
  obtain ⟨t, h, he⟩ := exec_compose_oneTile
  exact ⟨t, h, he, by decide⟩

theorem test_witness_EveryStepKeepsTheInvariant :
    Inv Config.params (finishedSheet [.wait]) ∧ step (finishedSheet [.wait]) = .next (finishedSheet []) :=
  ⟨finishedSheet_inv _, rfl⟩

theorem test_witness_PendingCommandEventuallyEnds :
    (pendingHost 0x13 5 [.wait]).status.busy = true ∧ (pendingHost 0x13 5 [.wait]).hostOps = .wait :: [] := ⟨rfl, rfl⟩

theorem test_witness_CommandAndWaitIsAtomic :
    ∀ i, (idleHost (HostOp.command i ++ [.rd 0x04])).status.busy = false ∧
      (idleHost (HostOp.command i ++ [.rd 0x04])).hostOps = HostOp.command i ++ [.rd 0x04] := fun _ => ⟨rfl, rfl⟩

theorem test_witness_WaitingHostIsNeverRefused :
    Disciplined (idleHost (HostOp.command .decode ++ [.rd 0x04] ++ HostOp.command .compose ++ [.rdfb 0])) ∧
    Disciplined (pendingHost 1 3 [.wait, .rd 0x38]) :=
  ⟨⟨rfl, by intro h; cases h⟩, ⟨rfl, fun _ => rfl⟩⟩

end Sys2Proof.Tests
end

/-! # COMPOSE and the single-tile commands (00_scope.md R4, 43_sheet_compositor.md R182 to R185)

Each command's success is inverted to the state it leaves. RASTER's block and tile `i`'s square of the sheet then hold the same
`rasterize`, at the pixels that R161 and R185 name. -/

namespace Sys2Proof.Machine

/-- A DECODE that succeeds passed its checks, and this is what it left (R122). -/
theorem exec_decode_success {s t : State} (h : exec .decode s = .next t) (he : t.status.errCode = .none) :
    s.inLen.toNat ≤ Config.params.inCap ∧ (s.tileIndex.toNat + 1) * 16 ≤ s.inLen.toNat ∧
      t = (s.setCig (decodeTile s s.tileIndex.toNat)).completeSuccess false := by
  obtain rfl : t = decodeCommand Config.params s := exec_next h
  rcases decodeCommand_cases Config.params s with ⟨code, req, avail, hcode, hfault⟩ | hsuccess
  · rw [hfault] at he
    exact absurd he hcode
  · exact hsuccess

/-- RESOLVE leaves this in every state: it has no check to fail (R142). -/
theorem exec_resolve_eq (s : State) :
    exec .resolve s = .next ((s.setRpal (resolve Config.params s.psel)).completeSuccess false) := rfl

/-- TILE_INDEX names the tile that DECODE reads; the grid of a given tile does not depend on it (R120, R121). -/
theorem decodeTile_tileIndex (s : State) (w : Word) (i : Nat) : decodeTile { s with tileIndex := w } i = decodeTile s i := rfl

/-- DECODE of tile `i`, then RESOLVE, leave the grid of tile `i` and the palette of PSEL, and SCALE as it was (R122, R142). -/
theorem decode_resolve_success {s a b : State} {i : Nat} (hi : i < s.inLen.toNat / 16)
    (ha : exec .decode { s with tileIndex := BitVec.ofNat 32 i } = .next a) (hb : exec .resolve a = .next b)
    (hea : a.status.errCode = .none) :
    b.cig = decodeTile s i ∧ b.rpal = resolve Config.params s.psel ∧ b.scale = s.scale := by
  have hindex : (BitVec.ofNat 32 i).toNat = i := by
    rw [BitVec.toNat_ofNat]
    exact Nat.mod_eq_of_lt (by omega)
  obtain ⟨-, -, rfl⟩ := exec_decode_success ha hea
  rw [exec_resolve_eq] at hb
  cases hb
  simp [hindex, decodeTile_tileIndex]

/-- The pixels of the block that a RASTER which succeeds leaves in RB (R161, R162). -/
theorem exec_raster_pixels {s t : State} (h : exec .raster s = .next t) (he : t.status.errCode = .none) :
    t.rbDim.toNat = 8 * s.scale.toInt.toNat ∧ ∀ py px, py < t.rbDim.toNat → px < t.rbDim.toNat →
      t.rb[py * t.rbDim.toNat + px]? = some (rasterize s.cig s.rpal s.scale.toInt.toNat py px) := by
  obtain ⟨-, -, -, -, hmax⟩ := params_bounds
  obtain ⟨scale, hscale, -, hdim, -, -, -, rfl⟩ := exec_raster_success h he
  have hside : (BitVec.ofNat 32 (8 * scale)).toNat = 8 * scale := dimension_toNat hmax hdim
  simp only [State.completeSuccess_rbDim, State.completeSuccess_rb, State.setRb_rbDim, State.setRb_rb, hside, hscale,
    Int.toNat_natCast, true_and]
  exact fun py px hpy hpx => pixelsOf_get _ hpy hpx

/-- Pixel `(py, px)` of tile `i`'s square in a sheet (R184, R185, R188). -/
theorem sheetOf_get_tile (p : Params) (s : State) {tpr scale i py px : Nat} (htpr : 1 ≤ tpr) (hi : i < s.inLen.toNat / 16)
    (hpy : py < 8 * scale) (hpx : px < 8 * scale) :
    (sheetOf p s tpr scale)[(i / tpr * (8 * scale) + py) * (tpr * (8 * scale)) + (i % tpr * (8 * scale) + px)]? =
      some (rasterize (decodeTile s i) (resolve p s.psel) scale py px) := by
  have hrow : i / tpr * (8 * scale) + py < ceilDiv (s.inLen.toNat / 16) tpr * (8 * scale) :=
    rowCol_lt (row_lt_ceilDiv htpr hi) hpy
  have hcol : i % tpr * (8 * scale) + px < tpr * (8 * scale) := rowCol_lt (Nat.mod_lt i htpr) hpx
  have htile : i / tpr * tpr + i % tpr = i := Nat.div_add_mod' i tpr
  rw [sheetOf_get p s (by omega) hrow hcol, rowCol_div hpy, rowCol_mod hpy, rowCol_div hpx, rowCol_mod hpx, htile, if_pos hi]

/-- Pixel `(py, px)` of tile `i`'s square in FB after a COMPOSE that succeeds (R182, R184, R185). -/
theorem exec_compose_tile_pixel {s t : State} (h : exec .compose s = .next t) (he : t.status.errCode = .none) {i py px : Nat}
    (hi : i < s.inLen.toNat / 16) (hpy : py < 8 * s.scale.toInt.toNat) (hpx : px < 8 * s.scale.toInt.toNat) :
    t.fb[(i / s.tilesPerRow.toInt.toNat * (8 * s.scale.toInt.toNat) + py) * t.fbWidth.toNat +
        (i % s.tilesPerRow.toInt.toNat * (8 * s.scale.toInt.toNat) + px)]? =
      some (rasterize (decodeTile s i) (resolve Config.params s.psel) s.scale.toInt.toNat py px) := by
  obtain ⟨-, -, -, -, hmax⟩ := params_bounds
  obtain ⟨tpr, scale, fits, rfl⟩ := exec_compose_success h he
  have hwidth : (BitVec.ofNat 32 (tpr * (8 * scale))).toNat = tpr * (8 * scale) := dimension_toNat hmax fits.width
  simp only [fits.scaleIs, Int.toNat_natCast] at hpy hpx
  simp only [State.completeSuccess_fb, State.completeSuccess_fbWidth, State.setFb_fb, State.setFb_fbWidth, hwidth, fits.tprIs,
    fits.scaleIs, Int.toNat_natCast]
  exact sheetOf_get_tile Config.params s fits.tprPos hi hpy hpx

/-- Settles O42: both pixels are `rasterize` of tile `i`'s grid and PSEL's palette, at the scale that no command changes. -/
theorem composeIsThePipelineOfTheOtherCommands : Obligations.ComposeIsThePipelineOfTheOtherCommands := by
  intro s a b c t i hi ha hb hc ht hea hec het tpr d
  obtain ⟨hcig, hrpal, hscale⟩ := decode_resolve_success hi ha hb hea
  obtain ⟨hside, hblock⟩ := exec_raster_pixels hc hec
  rw [hcig, hrpal, hscale] at hblock
  rw [hscale] at hside
  refine ⟨hside, fun py px hpy hpx => ⟨_, hblock py px hpy hpx, ?_⟩⟩
  have hsquare := exec_compose_tile_pixel ht het hi (hpy.trans_eq hside) (hpx.trans_eq hside)
  rwa [← hside] at hsquare

end Sys2Proof.Machine

/-! # The invariant (10_state.md R26, R36, R40; 20_memory.md R60, R64 to R66; 60_exceptions.md R212, R217)

It holds at reset, and each operation that HOST or BLOCK makes a step of keeps it; a step is one of these operations. A field of the
invariant that an operation does not touch is the one it had before. -/

namespace Sys2Proof.Machine

theorem reset_rpal (n : Fin 4) : State.reset.rpal[n] = black := by
  fin_cases n <;> rfl

/-- Settles O56: nothing is stored, every size is 0, and no flag is set. -/
theorem resetMeetsTheInvariant : Obligations.ResetMeetsTheInvariant where
  left := ⟨Memory.wf_reset, fun _ hc => nomatch hc⟩
  right := ⟨
    { rbExtent := rfl
      rbFits := Nat.zero_le _
      rbSide := ⟨Nat.zero_le _, dvd_zero 8⟩
      fbExtent := rfl
      fbFits := Nat.zero_le _
      fbSides := ⟨Nat.zero_le _, Nat.zero_le _, dvd_zero 8, dvd_zero 8⟩
      tilesInBuffer := Nat.zero_le _ },
    { busyNotDone := fun _ => rfl
      doneNoError := fun _ => rfl
      errorFaulted := fun he => absurd rfl he
      noErrorNoSizes := fun _ => ⟨rfl, rfl⟩
      warnSheet := fun hw => nomatch hw
      rbFromInputs := fun hrb => nomatch hrb
      rpalInvalid := fun _ => reset_rpal
      rbInvalid := fun _ => rfl
      fbInvalid := fun _ => ⟨rfl, rfl, rfl⟩ }⟩

section
variable {p : Params} {s : State}

/-- A HOST write inside IN keeps IN canonical and inside the store (R60, R66). -/
theorem InputOk.write (h : InputOk p s) {a : Nat} (ha : a < p.inCap) (v : Byte) :
    InputOk p { s with inMem := s.inMem.write a v } := by
  obtain ⟨hwf, hinside⟩ := h
  refine ⟨Memory.wf_write a v hwf, fun c hc => ?_⟩
  rcases Memory.mem_write hc with rfl | hc
  · exact ha
  · exact hinside c hc

/-- The invariant does not speak of HOST's program and reads, the control registers and the model's own counters. -/
theorem Inv.of_eq {t : State} (h : Inv p s)
    (ht : t = { s with
      hostOps := t.hostOps, hostReads := t.hostReads, inLen := t.inLen, tileIndex := t.tileIndex, tilesPerRow := t.tilesPerRow
      scale := t.scale, psel := t.psel, delay := t.delay, draws := t.draws, resets := t.resets }) : Inv p t := by
  obtain ⟨hin, hstores, hstatus⟩ := h
  rw [ht]
  exact ⟨hin, { hstores with }, { hstatus with }⟩

/-- A started command is busy, not done (R231). -/
theorem Inv.startCommand (h : Inv p s) (w : Word) : Inv p (s.startCommand w) := by
  obtain ⟨hin, hstores, hstatus⟩ := h
  exact ⟨hin, { hstores with },
    { hstatus with
      busyNotDone := fun _ => rfl
      doneNoError := fun hd => nomatch hd }⟩

theorem Inv.writeIn (h : Inv p s) {a : Nat} (ha : a < p.inCap) (v : Byte) : Inv p { s with inMem := s.inMem.write a v } := by
  obtain ⟨hin, hstores, hstatus⟩ := h
  exact ⟨hin.write ha v, { hstores with }, { hstatus with }⟩

theorem Inv.raiseFault (h : Inv p s) {code : ErrCode} (hc : code ≠ .none) (req avail : Word) : Inv p (s.raiseFault code req avail) := by
  obtain ⟨hin, hstores, hstatus⟩ := h
  exact ⟨hin, { hstores with },
    { hstatus with
      busyNotDone := fun _ => rfl
      doneNoError := fun hd => nomatch hd
      errorFaulted := fun _ => rfl
      noErrorNoSizes := fun he => absurd he hc
      warnSheet := fun hw => nomatch hw }⟩

/-- A success may warn only of a valid sheet (R215). -/
theorem Inv.completeSuccess (h : Inv p s) {warn : Bool} (hw : warn = true → s.status.fbValid = true) :
    Inv p (s.completeSuccess warn) := by
  obtain ⟨hin, hstores, hstatus⟩ := h
  exact ⟨hin, { hstores with },
    { hstatus with
      busyNotDone := fun hb => nomatch hb
      doneNoError := fun _ => rfl
      errorFaulted := fun he => absurd rfl he
      noErrorNoSizes := fun _ => ⟨rfl, rfl⟩
      warnSheet := fun h => ⟨rfl, hw h⟩ }⟩

theorem Inv.setCig (h : Inv p s) (g : Grid) : Inv p (s.setCig g) := by
  obtain ⟨hin, hstores, hstatus⟩ := h
  exact ⟨hin, { hstores with },
    { hstatus with rbFromInputs := fun hrb => ⟨rfl, (hstatus.rbFromInputs hrb).2⟩ }⟩

theorem Inv.setRpal (h : Inv p s) (rp : Palette) : Inv p (s.setRpal rp) := by
  obtain ⟨hin, hstores, hstatus⟩ := h
  exact ⟨hin, { hstores with },
    { hstatus with
      rbFromInputs := fun hrb => ⟨(hstatus.rbFromInputs hrb).1, rfl⟩
      rpalInvalid := fun hv => nomatch hv }⟩

/-- A block that fits its store and MAX_DIM, made from a valid grid and palette (R162). -/
theorem Inv.setRb (h : Inv p s) (hmax : p.maxDim ≤ 2 ^ 32 - 1) {d : Nat} {b : Pixels} (hcig : s.status.cigValid = true)
    (hrpal : s.status.rpalValid = true) (hd8 : 8 ∣ d) (hd : d ≤ p.maxDim) (hcap : d * d ≤ p.rbCap) (hb : b.length = d * d) :
    Inv p (s.setRb d b) := by
  obtain ⟨hin, hstores, hstatus⟩ := h
  have hreg : (BitVec.ofNat 32 d).toNat = d := dimension_toNat hmax hd
  exact ⟨hin,
    { hstores with
      rbExtent := by simp only [State.setRb_rb, State.setRb_rbDim, hreg, hb]
      rbFits := hb.trans_le hcap
      rbSide := by simpa only [State.setRb_rbDim, hreg] using ⟨hd, hd8⟩ },
    { hstatus with
      rbFromInputs := fun _ => ⟨hcig, hrpal⟩
      rbInvalid := fun hv => nomatch hv }⟩

/-- A sheet that fits its store and MAX_DIM, of tiles that fit IN (R182). -/
theorem Inv.setFb (h : Inv p s) (hmax : p.maxDim ≤ 2 ^ 32 - 1) {w ht n : Nat} {b : Pixels} (hw8 : 8 ∣ w) (hh8 : 8 ∣ ht)
    (hw : w ≤ p.maxDim) (hh : ht ≤ p.maxDim) (hcap : w * ht ≤ p.fbCap) (hn : n * 16 ≤ p.inCap) (hb : b.length = ht * w) :
    Inv p (s.setFb w ht n b) := by
  obtain ⟨hin, hstores, hstatus⟩ := h
  have hwidth : (BitVec.ofNat 32 w).toNat = w := dimension_toNat hmax hw
  have hheight : (BitVec.ofNat 32 ht).toNat = ht := dimension_toNat hmax hh
  have hcount : (BitVec.ofNat 32 n).toNat ≤ n := by
    rw [BitVec.toNat_ofNat]
    exact Nat.mod_le n _
  exact ⟨hin,
    { hstores with
      fbExtent := by simp only [State.setFb_fb, State.setFb_fbHeight, State.setFb_fbWidth, hwidth, hheight, hb]
      fbFits := (hb.trans (Nat.mul_comm ht w)).trans_le hcap
      fbSides := by simpa only [State.setFb_fbWidth, State.setFb_fbHeight, hwidth, hheight] using ⟨hw, hh, hw8, hh8⟩
      tilesInBuffer := (Nat.mul_le_mul_right 16 hcount).trans hn },
    { hstatus with
      warnSheet := fun hw => ⟨(hstatus.warnSheet hw).1, rfl⟩
      fbInvalid := fun hv => nomatch hv }⟩

end

/-- Reset meets the invariant whatever HOST keeps over it (R250). -/
theorem assertReset_inv (s : State) : Inv Config.params s.assertReset :=
  Inv.of_eq resetMeetsTheInvariant rfl

/-- A command keeps the invariant, whether it fails a check or succeeds (R213 to R215). -/
theorem exec_keeps_inv {i : Instr} {s t : State} (hs : Inv Config.params s) (h : exec i s = .next t) : Inv Config.params t := by
  obtain ⟨-, -, -, -, hmax⟩ := params_bounds
  rcases exec_cases h with ⟨code, req, avail, hcode, -, rfl⟩ | ⟨-, -, -, rfl⟩ | ⟨-, rfl⟩ |
    ⟨-, scale, hcig, hrpal, -, -, hdim, hcap, rfl⟩ | ⟨-, tpr, scale, fits, rfl⟩
  · exact hs.raiseFault hcode req avail
  · exact (hs.setCig _).completeSuccess nofun
  · exact (hs.setRpal _).completeSuccess nofun
  · exact (hs.setRb hmax hcig hrpal (dvd_mul_right 8 scale) hdim hcap (pixelsOf_length ..)).completeSuccess nofun
  · have hside (k : Nat) : 8 ∣ k * (8 * scale) := (dvd_mul_right 8 scale).mul_left k
    have htiles : s.inLen.toNat / 16 * 16 ≤ Config.params.inCap := (Nat.div_mul_le_self _ 16).trans fits.buffer
    exact (hs.setFb hmax (hside _) (hside _) fits.width fits.height fits.pixels htiles (sheetOf_length ..)).completeSuccess
      fun _ => rfl

theorem blockStep_keeps_inv {s t : State} (hs : Inv Config.params s) (h : blockStep s = .next t) : Inv Config.params t := by
  rcases blockStep_cases s with ⟨i, -, hi⟩ | ⟨-, hill⟩
  · exact exec_keeps_inv hs (hi ▸ h)
  · cases hill.symm.trans h
    exact hs.raiseFault (by decide) 0 0

theorem hostMoves_keeps_inv {s u : State} (hs : Inv Config.params s) (h : HostMoves s u) : Inv Config.params u := by
  rcases h with ⟨-, rfl⟩ | ⟨-, k, -, rfl⟩
  · exact hs
  · exact hs.of_eq rfl

theorem hostStep_keeps_inv {s t : State} (hs : Inv Config.params s) (h : hostStep Config.params s = .next t) :
    Inv Config.params t := by
  rcases hostStep_cases h with ⟨-, rfl⟩ | ⟨op, rest, -, -, ⟨off, w, -, -, rfl⟩ | ⟨off, w, il, ti, tpr, sc, ps, -, rfl⟩ |
    ⟨a, v, -, ha, rfl⟩ | ⟨v, n, rfl⟩ | ⟨-, -, rfl⟩ | ⟨-, rfl⟩ | ⟨-, rfl⟩⟩
  · exact hs
  · exact Inv.startCommand (s := { s with hostOps := rest }) (hs.of_eq rfl) w
  · exact hs.of_eq rfl
  · exact Inv.writeIn (s := { s with hostOps := rest }) (hs.of_eq rfl) ha v
  · exact hs.of_eq rfl
  · exact hs
  · exact hs.of_eq rfl
  · exact assertReset_inv _

/-- Settles O57: the mover is BLOCK or HOST, and each one's step keeps the invariant. -/
theorem everyStepKeepsTheInvariant : Obligations.EveryStepKeepsTheInvariant := by
  intro s t hs h
  rcases blockMoves_or_hostMoves s with hblock | ⟨u, hhost⟩
  · exact blockStep_keeps_inv hs (step_of_blockMoves hblock ▸ h)
  · exact hostStep_keeps_inv (hostMoves_keeps_inv hs hhost) (step_of_hostMoves hhost ▸ h)

end Sys2Proof.Machine

/-! # Whose step it is, and what an idle HOST may do (10_state.md R21, 60_exceptions.md R230, R231) -/

namespace Sys2Proof.Machine

/-- HOST's move while BUSY = 0 is on the state itself. -/
theorem hostMoves_of_idle {s : State} (hb : s.status.busy = false) : HostMoves s s := .inl ⟨hb, rfl⟩

theorem not_blockMoves_of_hostMoves {s u : State} (h : HostMoves s u) : ¬ BlockMoves s := by
  rintro ⟨hbusy, hdelay⟩
  rcases h with ⟨hidle, -⟩ | ⟨-, k, hk, -⟩
  · simp [hidle] at hbusy
  · omega

theorem blockStep_of_command {s : State} {i : Instr} (h : decode s.pending = .command i) : blockStep s = exec i s := by
  rw [blockStep, h]

/-- Settles O6: it is BLOCK's step, and BLOCK's step of a command word is its command. -/
theorem blockStepRunsThePendingCommand : Obligations.BlockStepRunsThePendingCommand := by
  intro s i hblock hi
  rw [step_of_blockMoves hblock, blockStep_of_command hi]

/-- A word of the opcode table decodes as a command word does. -/
theorem decode_of_decodeTableWord {n w : Nat} {i : Instr} (h : decodeTableWord n w = some i) :
    decode (BitVec.ofNat 32 w) = .command i := by
  unfold decodeTableWord at h
  split_ifs at h
  cases hd : decode (BitVec.ofNat 32 w) with
  | command j => simpa [hd] using h
  | illegalCommand => simp [hd] at h

/-- Settles O7: placing a word makes it BLOCK's move with the word pending. -/
theorem placedWordRunsNext : Obligations.PlacedWordRunsNext :=
  fun _ i _ hw => blockStepRunsThePendingCommand _ i ⟨rfl, rfl⟩ (decode_of_decodeTableWord hw)

/-- HOST may access REG at any multiple of 4 while BUSY = 0 (R61, R230). -/
theorem wr_allowed_of_idle {s : State} (hb : s.status.busy = false) {off : Nat} (hoff : off % 4 = 0) (v : Word) :
    (HostOp.wr off v).refusal s.status.busy = none := by
  simp [HostOp.refusal, hoff, hb]

theorem rd_allowed_of_idle {s : State} (hb : s.status.busy = false) {off : Nat} (hoff : off % 4 = 0) :
    (HostOp.rd off).refusal s.status.busy = none := by
  simp [HostOp.refusal, hoff, hb]

/-- Settles O8: offset 0 is CMD, and an idle HOST's write of it starts the command. -/
theorem cmdWriteStartsACommand : Obligations.CmdWriteStartsACommand := by
  intro s w rest hidle hops
  exact ⟨_, step_of_hostOp (hostMoves_of_idle hidle) hops (wr_allowed_of_idle hidle rfl w), rfl⟩

end Sys2Proof.Machine

/-! # STATUS (10_state.md R26, R37; 60_exceptions.md R211, R215) -/

namespace Sys2Proof.Machine

/-- The codes 7 to 15 are reserved (R211). -/
theorem ErrCode.code_le (c : ErrCode) : c.code.toNat ≤ 6 := by
  cases c <;> decide

/-- The fault code stands at bits [11:8] (R26). -/
theorem Status.word_errCode (st : Status) : st.word.extractLsb' 8 4 = st.errCode.code := by
  apply BitVec.eq_of_getLsbD_eq
  intro k hk
  have hflags : ∀ j < 8, ¬ 8 + k = j := fun j hj => by omega
  rw [BitVec.getLsbD_extractLsb', st.word_getLsbD _ (by omega)]
  simp [hk, hflags]

/-- Bits [31:12] are 0 (R37). -/
theorem Status.word_reserved (st : Status) : st.word.extractLsb' 12 20 = 0 := by
  apply BitVec.eq_of_toNat_eq
  rw [BitVec.extractLsb'_toNat, Nat.shiftRight_eq_div_pow, Nat.div_eq_of_lt st.word_lt]
  rfl

/-- Settles O10: bits 0 to 7 are read off `Status.word_getLsbD`. -/
theorem statusWordLayout : Obligations.StatusWordLayout := by
  refine ⟨fun st => ⟨?_, ?_, ?_, ?_, ?_, ?_, ?_, ?_, st.word_errCode, st.word_reserved, st.errCode.code_le⟩,
    rfl, rfl, rfl, rfl, rfl, rfl, rfl⟩
  all_goals
    rw [st.word_getLsbD _ (by decide)]
    simp

/-- Settles O26: BLACK's word is 0; every other value is the one the state names. -/
theorem startStateHasTheResetValues : Obligations.StartStateHasTheResetValues := by
  have hblack (n : Fin 4) : colourWord State.reset.rpal[n] = 0 := by rw [reset_rpal, colourWord_black]
  exact ⟨by decide, rfl, rfl, rfl, rfl, rfl, hblack, rfl, rfl, rfl, rfl, rfl, rfl, rfl⟩

/-- Settles O53: every completion but COMPOSE's success clears WARN, and that one sets it as R180 says. -/
theorem warnMeansTruncatedCompose : Obligations.WarnMeansTruncatedCompose := by
  intro s t i h
  rcases exec_cases h with ⟨code, req, avail, hcode, -, rfl⟩ | ⟨rfl, -, -, rfl⟩ | ⟨rfl, rfl⟩ |
    ⟨rfl, scale, -, -, -, -, -, -, rfl⟩ | ⟨rfl, tpr, scale, -, rfl⟩
  · simp [hcode]
  · simp
  · simp
  · simp
  · simp [truncationWarning]

/-- The valid bits set before are set after (R26). -/
def ValidBitsKept (st st' : Status) : Prop :=
  (st.cigValid = true → st'.cigValid = true) ∧ (st.rpalValid = true → st'.rpalValid = true) ∧
    (st.rbValid = true → st'.rbValid = true) ∧ (st.fbValid = true → st'.fbValid = true)

theorem ValidBitsKept.refl (st : Status) : ValidBitsKept st st := ⟨id, id, id, id⟩

/-- A command clears no valid bit; its success sets its own. -/
theorem exec_keeps_validBits {i : Instr} {s t : State} (h : exec i s = .next t) : ValidBitsKept s.status t.status := by
  rcases exec_cases h with ⟨code, req, avail, -, -, rfl⟩ | ⟨-, -, -, rfl⟩ | ⟨-, rfl⟩ | ⟨-, scale, -, -, -, -, -, -, rfl⟩ |
    ⟨-, tpr, scale, -, rfl⟩
  · exact ⟨id, id, id, id⟩
  · exact ⟨fun _ => rfl, id, id, id⟩
  · exact ⟨id, fun _ => rfl, id, id⟩
  · exact ⟨id, id, fun _ => rfl, id⟩
  · exact ⟨id, id, id, fun _ => rfl⟩

theorem blockStep_keeps_validBits {s t : State} (h : blockStep s = .next t) : ValidBitsKept s.status t.status := by
  rcases blockStep_cases s with ⟨i, -, hi⟩ | ⟨-, hill⟩
  · exact exec_keeps_validBits (hi ▸ h)
  · cases hill.symm.trans h
    exact ⟨id, id, id, id⟩

/-- Of HOST's operations reset alone touches a valid bit. -/
theorem hostStep_keeps_validBits {p : Params} {s t : State} (h : hostStep p s = .next t) :
    ValidBitsKept s.status t.status ∨ ∃ rest, s.hostOps = .reset :: rest := by
  rcases hostStep_cases h with ⟨-, rfl⟩ | ⟨op, rest, hops, -, ⟨off, w, -, -, rfl⟩ | ⟨off, w, il, ti, tpr, sc, ps, -, rfl⟩ |
    ⟨a, v, -, -, rfl⟩ | ⟨v, n, rfl⟩ | ⟨-, -, rfl⟩ | ⟨-, rfl⟩ | ⟨rfl, -⟩⟩
  · exact .inl (.refl _)
  · exact .inl ⟨id, id, id, id⟩
  · exact .inl (.refl _)
  · exact .inl (.refl _)
  · exact .inl (.refl _)
  · exact .inl (.refl _)
  · exact .inl (.refl _)
  · exact .inr ⟨rest, hops⟩

/-- Settles O52: a step is BLOCK's, which keeps the bits, or HOST's, on a state with the same STATUS and program. -/
theorem validBitsAreClearedByResetOnly : Obligations.ValidBitsAreClearedByResetOnly := by
  intro s t h
  rcases blockMoves_or_hostMoves s with hblock | ⟨u, hhost⟩
  · exact .inl (blockStep_keeps_validBits (step_of_blockMoves hblock ▸ h))
  · have hu := hostStep_keeps_validBits (step_of_hostMoves hhost ▸ h)
    rw [hostMoves_eq hhost] at hu
    exact hu.imp_right fun hreset => ⟨not_blockMoves_of_hostMoves hhost, hreset⟩

end Sys2Proof.Machine

/-! # The register map (10_state.md R24 to R37) -/

namespace Sys2Proof.Machine

/-- HOST may access a reserved offset at any time (R37). -/
theorem wr_allowed_of_reserved {off : Nat} (hoff : off % 4 = 0) (hres : 0x50 ≤ off) (v : Word) (busy : Bool) :
    (HostOp.wr off v).refusal busy = none := by
  simp [HostOp.refusal, busyWriteRefusal, hoff, atOffset_reserved hres]

theorem rd_allowed_of_reserved {off : Nat} (hoff : off % 4 = 0) (hres : 0x50 ≤ off) (busy : Bool) :
    (HostOp.rd off).refusal busy = none := by
  simp [HostOp.refusal, busyReadRefusal, hoff, atOffset_reserved hres]

/-- No register's reading depends on HOST's program. -/
theorem readReg_hostOps (s : State) (ops : List HostOp) (off : Nat) :
    ({ s with hostOps := ops } : State).readReg off = s.readReg off := rfl

/-- A read that returns a word changes HOST alone. -/
theorem step_rd_value {s u : State} {off : Nat} {v : Word} {rest : List HostOp} (h : HostMoves s u) (hops : s.hostOps = .rd off :: rest)
    (hallowed : (HostOp.rd off).refusal s.status.busy = none) (hread : u.readReg off = .value v) :
    step s = .next { u with hostOps := rest, hostReads := u.hostReads ++ [v] } := by
  rw [step_of_hostOp h hops hallowed, HostOp.perform, readReg_hostOps, hread]
  rfl

theorem readReg_reserved (s : State) {off : Nat} (h : 0x50 ≤ off) : s.readReg off = .value 0 := by
  rw [State.readReg, atOffset_reserved h]

theorem writeReg_reserved (s : State) {off : Nat} (h : 0x50 ≤ off) (v : Word) : s.writeReg off v = s := by
  rw [State.writeReg, atOffset_reserved h]

/-- RPALn reads as a colour word once RPAL is valid (R68). -/
theorem readReg_rpal (s : State) (n : Fin 4) :
    s.readReg (0x28 + 4 * n.val) = if s.status.rpalValid then .value (colourWord s.rpal[n]) else .invalid .invalidOutputRead := by
  have hoff : Reg.atOffset (0x28 + 4 * n.val) = some (.rpal n) := reg_atOffset_offset (.rpal n)
  rw [State.readReg, hoff]

/-- A word with a bit of RSV set is no command (R92). -/
theorem decode_of_rsv {w : Word} (h : 16 ≤ w.toNat) : decode w = .illegalCommand := by
  have hne (v : Word) (hv : v.toNat < 16) : w ≠ v := by
    rintro rfl
    omega
  rw [decode, if_neg (hne _ (by decide)), if_neg (hne _ (by decide)), if_neg (hne _ (by decide)), if_neg (hne _ (by decide))]

/-- Settles O13: no register stands at a reserved offset, and the words' reserved bits are 0 by their size. -/
theorem reservedOffsetsAndBits : Obligations.ReservedOffsetsAndBits := by
  refine ⟨?_, ?_, Status.word_lt, ?_, ?_⟩
  · intro s u k rest hhost hlow _ hops
    have hres : 0x50 ≤ 4 * k := by omega
    rw [step_rd_value hhost hops (rd_allowed_of_reserved (Nat.mul_mod_right 4 k) hres _) (readReg_reserved u hres),
      hostMoves_eq hhost]
  · intro s u k v rest hhost hlow _ hops
    have hres : 0x50 ≤ 4 * k := by omega
    rw [step_of_hostOp hhost hops (wr_allowed_of_reserved (Nat.mul_mod_right 4 k) hres v _), HostOp.perform,
      writeReg_reserved _ hres]
  · intro s hblock hrsv
    rcases blockStep_cases s with ⟨i, hi, -⟩ | ⟨-, hill⟩
    · rw [decode_of_rsv hrsv] at hi
      cases hi
    · exact ⟨_, (step_of_blockMoves hblock).trans hill, rfl⟩
  · intro s n v hread
    rw [readReg_rpal] at hread
    split_ifs at hread
    cases hread
    exact colourWord_lt _

/-- R24's map, but for RPAL0..3: the offset of each register, and the word a read of it returns. -/
def registerMap (s : State) : List (Nat × Word) :=
  [(0x00, 0#32), (0x04, s.status.word), (0x08, s.inLen), (0x0C, s.tileIndex), (0x10, s.tilesPerRow), (0x14, s.scale),
    (0x18, s.psel[0]), (0x1C, s.psel[1]), (0x20, s.psel[2]), (0x24, s.psel[3]), (0x38, s.rbDim), (0x3C, s.fbWidth),
    (0x40, s.fbHeight), (0x44, s.tileCount), (0x48, s.errReq), (0x4C, s.errAvail)]

theorem readReg_of_mem_registerMap {s : State} {off : Nat} {v : Word} (h : (off, v) ∈ registerMap s) :
    off % 4 = 0 ∧ s.readReg off = .value v := by
  have hall : ∀ e ∈ registerMap s, e.1 % 4 = 0 ∧ s.readReg e.1 = .value e.2 := by
    simp only [registerMap, List.forall_mem_cons, List.not_mem_nil, false_implies, implies_true, Nat.reduceMod, true_and,
      and_true]
    and_intros <;> rfl
  exact hall _ h

/-- Settles O12: each offset of the map is aligned and reads its word, so that the step answers the read. -/
theorem registerMapReads : Obligations.RegisterMapReads := by
  intro s off v rest hidle hops hmap
  have hread : off % 4 = 0 ∧ s.readReg off = .value v := by
    rcases hmap with hmem | ⟨hvalid, n, rfl, rfl⟩
    · exact readReg_of_mem_registerMap hmem
    · exact ⟨by omega, by rw [readReg_rpal, if_pos hvalid]⟩
  exact step_rd_value (hostMoves_of_idle hidle) hops (rd_allowed_of_idle hidle hread.1) hread.2

/-- The offsets of the control registers (R24, R230). -/
theorem control_of_mem {off : Nat} (h : off ∈ [0x08, 0x0C, 0x10, 0x14, 0x18, 0x1C, 0x20, 0x24]) :
    ∃ r : Reg, r.isControl = true ∧ r.offset = off := by
  have hall : ∀ off ∈ [0x08, 0x0C, 0x10, 0x14, 0x18, 0x1C, 0x20, 0x24], ∃ r ∈ Reg.all, r.isControl = true ∧ r.offset = off := by
    decide
  obtain ⟨r, -, hr⟩ := hall off h
  exact ⟨r, hr⟩

/-- CMD is no control register. -/
theorem atOffset_control_ne_cmd {r : Reg} (hr : r.isControl = true) : Reg.atOffset r.offset ≠ some .cmd := by
  rw [reg_atOffset_offset]
  rintro ⟨⟩
  cases hr

/-- Writing a control register changes control registers alone. -/
theorem writeReg_control {r : Reg} (hr : r.isControl = true) (v : Word) (s : State) :
    ∃ a b c d e, s.writeReg r.offset v = { s with inLen := a, tileIndex := b, tilesPerRow := c, scale := d, psel := e } :=
  (writeReg_cases r.offset v s).resolve_left fun hcmd => atOffset_control_ne_cmd hr hcmd.1

/-- Settles O11: the write stores the word in the register (`readReg_writeReg_self`) and changes no other register's reading
(`readReg_writeReg_other`); the read changes HOST alone. -/
theorem controlRegistersStoreWhatIsWritten : Obligations.ControlRegistersStoreWhatIsWritten := by
  intro s off v rest hoff hidle hops
  obtain ⟨r, hr, rfl⟩ := control_of_mem hoff
  let u : State := { s with hostOps := .rd r.offset :: rest }
  have hwrite : step s = .next (u.writeReg r.offset v) :=
    step_of_hostOp (hostMoves_of_idle hidle) hops (wr_allowed_of_idle hidle (reg_offset_aligned r) v)
  have hself := readReg_writeReg_self u v hr
  have hother (off' : Nat) (hne : off' ≠ r.offset) := readReg_writeReg_other u v hne (atOffset_control_ne_cmd hr)
  obtain ⟨a, b, c, d, e, ht⟩ := writeReg_control hr v u
  rw [ht] at hwrite hself hother
  exact ⟨_, _, hwrite, step_rd_value (hostMoves_of_idle hidle) rfl (rd_allowed_of_idle hidle (reg_offset_aligned r)) hself,
    rfl, rfl, hother, rfl, rfl, rfl, rfl, rfl⟩

end Sys2Proof.Machine

/-! # The host bus (20_memory.md R69) -/

namespace Sys2Proof.Machine

/-- The four bytes of a word, put together again, are the word. -/
theorem wordOfBytes_extract (w : Word) :
    wordOfBytes (w.extractLsb' 0 8) (w.extractLsb' 8 8) (w.extractLsb' 16 8) (w.extractLsb' 24 8) = w := by
  apply BitVec.eq_of_toNat_eq
  have hw := w.isLt
  simp only [wordOfBytes_toNat, BitVec.extractLsb'_toNat, Nat.shiftRight_eq_div_pow]
  omega

/-- Either order puts the bytes back where it took them from. -/
theorem busWord_busBytes (e : Endian) (w : Word) : busWord e (busBytes e w) = some w := by
  cases e <;> exact congrArg some (wordOfBytes_extract w)

/-- Settles O5: the decoder sees the word the bus carried. -/
theorem busOrderDoesNotMatter : Obligations.BusOrderDoesNotMatter :=
  fun e w => ⟨busWord_busBytes e w, by rw [decodeBytes, busWord_busBytes]⟩

end Sys2Proof.Machine

/-! # HOST's reads (20_memory.md R62 to R68, R73)

What a read of each space returns, case by case; a read that HOST may make while BUSY = 0 is answered by it in one step. -/

namespace Sys2Proof.Machine

section
variable {p : Params} {s : State} {a i k cap : Nat} {valid : Bool} {pixels : Pixels}

theorem readIn_written {v : Byte} (ha : a < p.inCap) (hv : s.inMem.read a = some v) :
    s.readIn p a = .value (v.setWidth 32) := by
  rw [State.readIn, if_pos ha, hv]

theorem readIn_unwritten (ha : a < p.inCap) (hv : s.inMem.read a = none) : s.readIn p a = .invalid .unwrittenInputRead := by
  rw [State.readIn, if_pos ha, hv]

theorem readIn_outside (ha : p.inCap ≤ a) : s.readIn p a = .value 0 := if_neg (Nat.not_lt.mpr ha)

theorem readCt_inside (hk : k < 64) : readCt p k = .value (colourWord (p.ct (BitVec.ofNat 6 k))) := if_pos hk

theorem readCt_outside (hk : 64 ≤ k) : readCt p k = .value 0 := if_neg (Nat.not_lt.mpr hk)

theorem readCig_valid (hi : i < 64) (hv : s.status.cigValid = true) :
    s.readCig i = .value ((cell s.cig (i / 8) (i % 8)).setWidth 32) := by
  rw [State.readCig, if_pos hi, if_pos hv]

theorem readCig_invalid (hi : i < 64) (hv : s.status.cigValid = false) : s.readCig i = .invalid .invalidOutputRead := by
  rw [State.readCig, if_pos hi, if_neg (by simp [hv])]

theorem readCig_outside (hi : 64 ≤ i) : s.readCig i = .value 0 := if_neg (Nat.not_lt.mpr hi)

theorem readPixel_inside {c : Colour} (hi : i < cap) (hc : pixels[i]? = some c) :
    readPixel cap true pixels i = .value (colourWord c) := by
  rw [readPixel, if_pos hi, if_pos rfl, hc]

/-- Beyond the extent of the last result (R67, I4). -/
theorem readPixel_beyond (hi : i < cap) (hext : pixels.length ≤ i) : readPixel cap true pixels i = .unspecified := by
  rw [readPixel, if_pos hi, if_pos rfl, List.getElem?_eq_none hext]

theorem readPixel_invalid (hi : i < cap) : readPixel cap false pixels i = .invalid .invalidOutputRead := if_pos hi

theorem readPixel_outside (hi : cap ≤ i) : readPixel cap valid pixels i = .value 0 := if_neg (Nat.not_lt.mpr hi)

end

/-- What a HOST read returns that the spec gives HOST while BUSY = 0 (R61, R230); the other operations return nothing. -/
def HostOp.reading (p : Params) (s : State) : HostOp → Option ReadResult
  | .rd off => if off % 4 = 0 then some (s.readReg off) else none
  | .rb a => some (s.readIn p a)
  | .rdct k => some (readCt p k)
  | .rdcig i => some (s.readCig i)
  | .rdrb i => some (readPixel p.rbCap s.status.rbValid s.rb i)
  | .rdfb i => some (readPixel p.fbCap s.status.fbValid s.fb i)
  | _ => none

theorem reading_rd {p : Params} {s : State} {off : Nat} (hoff : off % 4 = 0) :
    (HostOp.rd off).reading p s = some (s.readReg off) := if_pos hoff

theorem refusal_of_reading {p : Params} {s : State} {op : HostOp} {r : ReadResult} (h : op.reading p s = some r) :
    op.refusal false = none := by
  cases op with
  | rd off =>
    simp only [HostOp.reading] at h
    split_ifs at h with hoff
    simp [HostOp.refusal, hoff]
  | wr _ _ => cases h
  | _ => rfl

/-- No reading depends on HOST's program. -/
theorem perform_of_reading {p : Params} {s : State} {op : HostOp} {r : ReadResult} (h : op.reading p s = some r)
    (ops : List HostOp) : op.perform p { s with hostOps := ops } = State.answer r { s with hostOps := ops } := by
  cases op with
  | rd off =>
    simp only [HostOp.reading] at h
    split_ifs at h
    cases h
    rfl
  | rb _ | rdct _ | rdcig _ | rdrb _ | rdfb _ =>
    cases h
    rfl
  | _ => cases h

/-- A HOST read while BUSY = 0. -/
theorem step_of_reading {s : State} {op : HostOp} {rest : List HostOp} {r : ReadResult} (hidle : s.status.busy = false)
    (hops : s.hostOps = op :: rest) (hr : op.reading Config.params s = some r) :
    step s = State.answer r { s with hostOps := rest } := by
  rw [step_of_hostOp (hostMoves_of_idle hidle) hops (hidle ▸ refusal_of_reading hr), perform_of_reading hr]

/-- Settles O16: the two cases inside the range, and the numbers of their words. -/
theorem colourTableAndGridReads : Obligations.ColourTableAndGridReads := by
  constructor
  · intro s k rest hidle hk hops
    exact ⟨_, step_of_reading hidle hops (congrArg some (readCt_inside (by omega))), colourWord_toNat _⟩
  · intro s y x rest hidle hvalid hy hx hops
    have hrow : (8 * y + x) / 8 = y := by omega
    have hcol : (8 * y + x) % 8 = x := by omega
    have hcell := (cell s.cig y x).isLt
    have hword : ((cell s.cig y x).setWidth 32).toNat = (cell s.cig y x).toNat := by
      rw [BitVec.toNat_setWidth]
      exact Nat.mod_eq_of_lt (by omega)
    have hread := readCig_valid (i := 8 * y + x) (by omega) hvalid
    rw [hrow, hcol] at hread
    exact ⟨_, step_of_reading hidle hops (congrArg some hread), hword, hword.trans_lt hcell⟩

/-- A row and a column inside the extent of a raster name a pixel of it (R64, R65). -/
theorem readPixel_rowCol {cap h w y x : Nat} {pixels : Pixels} (hext : pixels.length = h * w) (hfits : pixels.length ≤ cap)
    (hy : y < h) (hx : x < w) :
    ∃ c, pixels[y * w + x]? = some c ∧ readPixel cap true pixels (y * w + x) = .value (colourWord c) := by
  have hin : y * w + x < pixels.length := (rowCol_lt hy hx).trans_eq hext.symm
  have hpixel := List.getElem?_eq_getElem hin
  exact ⟨_, hpixel, readPixel_inside (hin.trans_le hfits) hpixel⟩

/-- Settles O17: by the invariant the store holds the whole extent. -/
theorem pixelReadsAreRowMajor : Obligations.PixelReadsAreRowMajor := by
  constructor
  · rintro s py px rest ⟨-, hstores, -⟩ hidle hvalid hpy hpx hops
    obtain ⟨c, hpixel, hread⟩ := readPixel_rowCol hstores.rbExtent hstores.rbFits hpy hpx
    exact ⟨c, hpixel, step_of_reading (r := .value _) hidle hops (by rw [HostOp.reading, hvalid, hread])⟩
  · rintro s y x rest ⟨-, hstores, -⟩ hidle hvalid hy hx hops
    obtain ⟨c, hpixel, hread⟩ := readPixel_rowCol hstores.fbExtent hstores.fbFits hy hx
    exact ⟨c, hpixel, step_of_reading (r := .value _) hidle hops (by rw [HostOp.reading, hvalid, hread])⟩

/-- Settles O18: each space's case outside its range. -/
theorem outOfRangeReadsReturnZero : Obligations.OutOfRangeReadsReturnZero := by
  intro s op n rest hidle hops hout
  have hread : op.reading Config.params s = some (.value 0) := by
    rcases hout with ⟨rfl, hn⟩ | ⟨rfl, hn⟩ | ⟨rfl, hn⟩ | ⟨rfl, hn⟩ | ⟨rfl, hn⟩ | ⟨rfl, hn⟩
    · rw [reading_rd (Nat.mul_mod_right 4 n), readReg_reserved s (by omega)]
    · exact congrArg some (readIn_outside hn)
    · exact congrArg some (readCt_outside hn)
    · exact congrArg some (readCig_outside hn)
    · exact congrArg some (readPixel_outside hn)
    · exact congrArg some (readPixel_outside hn)
  exact step_of_reading hidle hops hread

/-- Settles O19: by the invariant the store holds no pixel there, so that the read draws a free value. -/
theorem readsBeyondTheExtentComplete : Obligations.ReadsBeyondTheExtentComplete := by
  rintro s op n rest ⟨-, hstores, -⟩ hidle hops hbeyond
  have hread : op.reading Config.params s = some .unspecified := by
    rcases hbeyond with ⟨rfl, hvalid, hext, hn⟩ | ⟨rfl, hvalid, hext, hn⟩
    · rw [HostOp.reading, hvalid, readPixel_beyond hn (hstores.rbExtent.trans_le hext)]
    · rw [Nat.mul_comm] at hext
      rw [HostOp.reading, hvalid, readPixel_beyond hn (hstores.fbExtent.trans_le hext)]
  exact ⟨_, _, step_of_reading hidle hops hread⟩

/-- Settles O20: the reads of an invalid output and of an unwritten byte inside their range. -/
theorem unspecifiedHostReadsFault : Obligations.UnspecifiedHostReadsFault := by
  intro s op n rest hidle hops
  constructor
  · intro hinvalid
    have hread : op.reading Config.params s = some (.invalid .invalidOutputRead) := by
      rcases hinvalid with ⟨rfl, hn, hv⟩ | ⟨rfl, hn, hv⟩ | ⟨rfl, hn, hv⟩ | ⟨rfl, hn, hv⟩
      · exact congrArg some (readCig_invalid hn hv)
      · rw [reading_rd (by omega), readReg_rpal s ⟨n, hn⟩, hv]
        rfl
      · rw [HostOp.reading, hv, readPixel_invalid hn]
      · rw [HostOp.reading, hv, readPixel_invalid hn]
    exact step_of_reading hidle hops hread
  · rintro ⟨rfl, hn, hunwritten⟩
    exact step_of_reading hidle hops (congrArg some (readIn_unwritten hn hunwritten))

/-- A HOST read does nothing but answer, whatever the address (R73). -/
theorem perform_of_isRead (p : Params) {op : HostOp} {n : Nat}
    (h : op = .rd n ∨ op = .rb n ∨ op = .rdct n ∨ op = .rdcig n ∨ op = .rdrb n ∨ op = .rdfb n) (s : State) :
    ∃ r, op.perform p s = State.answer r s := by
  rcases h with rfl | rfl | rfl | rfl | rfl | rfl <;> exact ⟨_, rfl⟩

/-- Settles O22: a read that is not refused answers HOST (`answer_next`). -/
theorem readsHaveNoSideEffect : Obligations.ReadsHaveNoSideEffect := by
  intro s u t op n rest hhost hops hop ht
  cases hr : op.refusal s.status.busy with
  | some r =>
    rw [step_of_refusal hhost hops hr] at ht
    cases ht
  | none =>
    obtain ⟨r, hperform⟩ := perform_of_isRead Config.params hop { u with hostOps := rest }
    rw [step_of_hostOp hhost hops hr, hperform] at ht
    obtain ⟨v, d, rfl⟩ := answer_next ht
    exact ⟨rfl, v, by rw [hostMoves_eq hhost]⟩

end Sys2Proof.Machine

/-! # HOST's writes (20_memory.md R66, R67; 60_exceptions.md R230) -/

namespace Sys2Proof.Machine

/-- The offsets of the registers that HOST may not write (R24, R230). -/
theorem readOnly_of_mem {off : Nat} (h : off ∈ [0x04, 0x28, 0x2C, 0x30, 0x34, 0x38, 0x3C, 0x40, 0x44, 0x48, 0x4C]) :
    ∃ r : Reg, r.isControl = false ∧ r ≠ .cmd ∧ r.offset = off := by
  have hall : ∀ off ∈ [0x04, 0x28, 0x2C, 0x30, 0x34, 0x38, 0x3C, 0x40, 0x44, 0x48, 0x4C],
      ∃ r ∈ Reg.all, r.isControl = false ∧ r ≠ .cmd ∧ r.offset = off := by
    decide
  obtain ⟨r, -, hr⟩ := hall off h
  exact ⟨r, hr⟩

/-- A write to a read-only register is given to HOST at any time, and ignored (R67, R230). -/
theorem wr_readOnly {r : Reg} (hctl : r.isControl = false) (hcmd : r ≠ .cmd) (v : Word) (s : State) (busy : Bool) :
    (HostOp.wr r.offset v).refusal busy = none ∧ s.writeReg r.offset v = s := by
  simp only [HostOp.refusal, busyWriteRefusal, State.writeReg, reg_atOffset_offset, reg_offset_aligned]
  cases r with
  | cmd => exact absurd rfl hcmd
  | inLen | tileIndex | tilesPerRow | scale => cases hctl
  | psel n => cases hctl
  | _ => simp [Reg.isControl]

theorem writeIn_inside {p : Params} {a : Nat} (ha : a < p.inCap) (v : Byte) (s : State) :
    s.writeIn p a v = { s with inMem := s.inMem.write a v } := if_pos ha

theorem writeIn_outside {p : Params} {a : Nat} (ha : p.inCap ≤ a) (v : Byte) (s : State) : s.writeIn p a v = s :=
  if_neg (Nat.not_lt.mpr ha)

/-- Settles O14: each of these writes is given to HOST and performs nothing. -/
theorem ignoredWrites : Obligations.IgnoredWrites := by
  intro s u op rest n v b hhost hops hop
  have hignored : op.refusal s.status.busy = none ∧ ∀ t : State, op.perform Config.params t = .next t := by
    rcases hop with ⟨rfl, hn⟩ | rfl | rfl | rfl | rfl | ⟨rfl, hn⟩ | ⟨rfl, hn, hidle⟩
    · obtain ⟨r, hctl, hcmd, rfl⟩ := readOnly_of_mem hn
      exact ⟨(wr_readOnly hctl hcmd v s _).1, fun t => congrArg _ (wr_readOnly hctl hcmd v t false).2⟩
    · exact ⟨rfl, fun _ => rfl⟩
    · exact ⟨rfl, fun _ => rfl⟩
    · exact ⟨rfl, fun _ => rfl⟩
    · exact ⟨rfl, fun _ => rfl⟩
    · exact ⟨wr_allowed_of_reserved (Nat.mul_mod_right 4 n) (by omega) v _,
        fun t => congrArg _ (writeReg_reserved t (by omega) v)⟩
    · exact ⟨by rw [hidle]; rfl, fun t => congrArg _ (writeIn_outside hn b t)⟩
  rw [step_of_hostOp hhost hops hignored.1, hignored.2]

/-- Settles O15: the write is `Memory.write`, whose laws say what each byte then holds; the read changes HOST alone. -/
theorem inputWriteThenRead : Obligations.InputWriteThenRead := by
  intro s a v rest ha hidle hops
  let t : State := { s with hostOps := .rb a :: rest, inMem := s.inMem.write a v }
  have hwrite : step s = .next t := by
    rw [step_of_hostOp (hostMoves_of_idle hidle) hops (by rw [hidle]; rfl), HostOp.perform, writeIn_inside ha]
  have hself : t.inMem.read a = some v := Memory.read_write_self s.inMem a v
  have hother (a' : Nat) (hne : a' ≠ a) : t.inMem.read a' = s.inMem.read a' := Memory.read_write_other s.inMem a a' v hne
  exact ⟨t, _, hwrite, step_of_reading (s := t) hidle rfl (congrArg some (readIn_written ha hself)), rfl,
    State.inByte_of_written hself, fun a' hne => ⟨hother a' hne, State.inByte_congr a' (hother a' hne) rfl⟩, rfl⟩

end Sys2Proof.Machine

/-! # Commands and HOST (20_memory.md R72, R74, R77; 30_encoding.md R93, R100) -/

namespace Sys2Proof.Machine

/-- A command changes STATUS, the output registers and the arrays alone (R93). -/
theorem exec_changes_outputs {i : Instr} {s t : State} (h : exec i s = .next t) :
    t = { s with
      status := t.status, rpal := t.rpal, rbDim := t.rbDim, fbWidth := t.fbWidth, fbHeight := t.fbHeight
      tileCount := t.tileCount, errReq := t.errReq, errAvail := t.errAvail, cig := t.cig, rb := t.rb, fb := t.fb } := by
  rcases exec_cases h with ⟨code, req, avail, -, -, rfl⟩ | ⟨-, -, -, rfl⟩ | ⟨-, rfl⟩ | ⟨-, scale, -, -, -, -, -, -, rfl⟩ |
    ⟨-, tpr, scale, -, rfl⟩
  · rfl
  · rfl
  · rfl
  · rfl
  · rfl

/-- Settles O54: none of these fields is an output. -/
theorem commandsLeaveInputsAndHost : Obligations.CommandsLeaveInputsAndHost := by
  intro s t i h
  rw [exec_changes_outputs h]
  exact ⟨rfl, rfl, rfl, rfl, rfl, rfl, fun _ => ⟨rfl, rfl⟩, rfl, rfl, rfl, rfl, rfl⟩

/-- No command's pseudocode reads HOST's program. -/
theorem commandState_hostOps (i : Instr) (s : State) (ops : List HostOp) :
    commandState i { s with hostOps := ops } = { commandState i s with hostOps := ops } := by
  cases i with
  | decode =>
    simp only [commandState, decodeCommand]
    split_ifs <;> rfl
  | resolve => rfl
  | raster =>
    simp only [commandState, rasterCommand]
    split_ifs <;> rfl
  | compose =>
    simp only [commandState, composeCommand]
    split_ifs <;> rfl

theorem inputsWritten_hostOps (i : Instr) (s : State) (ops : List HostOp) :
    InputsWritten i { s with hostOps := ops } ↔ InputsWritten i s := by
  cases i <;> rfl

theorem exec_next_hostOps {i : Instr} {s t : State} (h : exec i s = .next t) (ops : List HostOp) :
    exec i { s with hostOps := ops } = .next { t with hostOps := ops } := by
  rw [exec_next h, ← commandState_hostOps]
  rcases exec_outcome i s with ⟨hwritten | hcheck, -⟩ | ⟨-, -, hfault⟩
  · exact exec_of_written ((inputsWritten_hostOps i s ops).mpr hwritten)
  · exact exec_of_check (by rwa [commandState_hostOps])
  · cases hfault.symm.trans h

/-- A command's fault is the one of the claim, and HOST's program has no part in it. -/
theorem exec_fault_hostOps {i : Instr} {s : State} (hunwritten : ¬ InputsWritten i s)
    (hpass : (commandState i s).status.errCode = .none) (ops : List HostOp) :
    exec i { s with hostOps := ops } = .fault .unwrittenInputRead :=
  exec_of_unwritten (by rwa [inputsWritten_hostOps]) (by rwa [commandState_hostOps])

/-- `wait` stays while BUSY = 1 and is done once BUSY = 0 (R100). -/
theorem step_of_wait {s u : State} {rest : List HostOp} (h : HostMoves s u) (hops : s.hostOps = .wait :: rest) :
    step s = .next { u with hostOps := if s.status.busy then .wait :: rest else rest } := by
  have hbusy : u.status.busy = s.status.busy := by rw [hostMoves_eq h]
  rw [step_of_hostOp h hops rfl, HostOp.perform, ← hbusy]
  cases u.status.busy <;> rfl

theorem step_of_wait_idle {s : State} (hidle : s.status.busy = false) (rest : List HostOp) :
    step { s with hostOps := .wait :: rest } = .next { s with hostOps := rest } := by
  rw [step_of_wait (s := { s with hostOps := .wait :: rest }) (hostMoves_of_idle hidle) rfl, if_neg (by simp [hidle])]

theorem runFor_one (s : State) : runFor 1 s = step s := by
  cases hs : step s with
  | next t => rw [runFor_next hs, runFor_zero]
  | fault r => exact runFor_fault hs 0
  | refused r => exact runFor_refused hs 0

/-- A HOST that waits lets every move pass that BLOCK lets pass, and BLOCK then takes its step (R262). -/
theorem runFor_wait {d : Nat} {s : State} {rest : List HostOp} (hbusy : s.status.busy = true) (hdelay : s.delay = d)
    (hops : s.hostOps = .wait :: rest) : runFor (d + 1) s = blockStep { s with delay := 0 } := by
  induction d generalizing s with
  | zero => rw [Nat.zero_add, runFor_one, step_of_blockMoves ⟨hbusy, hdelay⟩, ← hdelay]
  | succ d ih =>
    have hpoll : step s = .next { s with delay := d } := by
      rw [step_of_wait (.inr ⟨hbusy, d, hdelay, rfl⟩) hops, if_pos hbusy, ← hops]
    rw [runFor_next hpoll]
    exact ih hbusy rfl hops

theorem decode_encode (i : Instr) : decode (encode i) = .command i := by
  cases i <;> rfl

/-- The CMD write and the polls of HOST's `wait` come to the command, with `wait` still to be done (R72, R100). -/
theorem exists_runFor_command {s : State} {i : Instr} {rest : List HostOp} (hidle : s.status.busy = false)
    (hops : s.hostOps = HostOp.command i ++ rest) :
    ∃ k, runFor k s = exec i (placeCommand (encode i) { s with hostOps := .wait :: rest, draws := s.draws + 1 }) := by
  have hstart : step s = .next (({ s with hostOps := .wait :: rest } : State).startCommand (encode i)) :=
    step_of_hostOp (hostMoves_of_idle hidle) hops (wr_allowed_of_idle hidle rfl _)
  refine ⟨_, (runFor_next hstart _).trans ((runFor_wait rfl rfl rfl).trans ?_)⟩
  exact blockStep_of_command (decode_encode i)

/-- Settles O59: the run comes to the command, which HOST's program has no part in; BUSY is then 0, and `wait` is done. -/
theorem commandAndWaitIsAtomic : Obligations.CommandAndWaitIsAtomic := by
  intro s i rest hidle hops
  obtain ⟨k, hrun⟩ := exists_runFor_command hidle hops
  let u : State := placeCommand (encode i) { s with hostOps := rest, draws := s.draws + 1 }
  rcases exec_outcome i u with ⟨-, hexec⟩ | ⟨hunwritten, hpass, hexec⟩
  · obtain ⟨hdone, hprogram, -, -, -⟩ := commandState_frame i u
    have hcommand : runFor k s = .next { commandState i u with hostOps := .wait :: rest } :=
      hrun.trans (exec_next_hostOps hexec (.wait :: rest))
    have hwait : runFor (k + 1) s = .next (commandState i u) := by
      rw [runFor_add hcommand, runFor_one, step_of_wait_idle hdone, ← commandState_hostOps]
      rfl
    exact ⟨k + 1, s.draws + 1, .inl ⟨_, hexec, hwait, hdone, hprogram⟩⟩
  · have hinputs : ¬ InputsWritten i s := by cases i <;> exact hunwritten
    exact ⟨k, s.draws + 1, .inr ⟨hexec, hrun.trans (exec_fault_hostOps hunwritten hpass (.wait :: rest)), hinputs⟩⟩

end Sys2Proof.Machine

/-! # The command words and `wait` (30_encoding.md R90 to R92, R98, R100)

A word is a command exactly when it is the word of one. R92's two fields, read off the word's number, say which words those are. -/

namespace Sys2Proof.Machine

/-- The whole word is compared (R91, R98). -/
theorem decode_eq_command_iff {w : Word} {i : Instr} : decode w = .command i ↔ w = encode i := by
  refine ⟨fun h => ?_, fun h => h ▸ decode_encode i⟩
  unfold decode at h
  split_ifs at h with h1 h2 h3 h4
  · cases h; exact h1
  · cases h; exact h2
  · cases h; exact h3
  · cases h; exact h4

/-- Settles O1: the four words of the table are the encodings. -/
theorem fourWordsSelectTheFourCommands : Obligations.FourWordsSelectTheFourCommands :=
  fun _ => ⟨decode_eq_command_iff, decode_eq_command_iff, decode_eq_command_iff, decode_eq_command_iff⟩

/-- OP holds the opcode and RSV is 0 (R90). -/
theorem encode_toNat (i : Instr) : (encode i).toNat = (opcode i).toNat := by
  cases i <;> rfl

theorem opcode_toNat_range (i : Instr) : 1 ≤ (opcode i).toNat ∧ (opcode i).toNat ≤ 4 := by
  cases i <;> decide

theorem exists_opcode_toNat_eq {n : Nat} (h1 : 1 ≤ n) (h4 : n ≤ 4) : ∃ i, (opcode i).toNat = n := by
  interval_cases n
  · exact ⟨.decode, rfl⟩
  · exact ⟨.resolve, rfl⟩
  · exact ⟨.raster, rfl⟩
  · exact ⟨.compose, rfl⟩

/-- An undefined OP or a nonzero RSV makes a word illegal (R92). -/
theorem decode_of_illegal_fields {w : Word} (h : w.toNat % 16 = 0 ∨ 5 ≤ w.toNat % 16 ∨ w.toNat / 16 ≠ 0) :
    decode w = .illegalCommand := by
  cases hw : decode w with
  | illegalCommand => rfl
  | command i =>
    have hnumber : w.toNat = (opcode i).toNat := by rw [decode_eq_command_iff.mp hw, encode_toNat]
    have hrange := opcode_toNat_range i
    omega

/-- A defined OP under a zero RSV names its command (R91). -/
theorem decode_of_legal_fields {w : Word} (h : ¬ (w.toNat % 16 = 0 ∨ 5 ≤ w.toNat % 16 ∨ w.toNat / 16 ≠ 0)) :
    ∃ i, decode w = .command i ∧ (opcode i).toNat = w.toNat % 16 := by
  obtain ⟨i, hi⟩ := exists_opcode_toNat_eq (n := w.toNat % 16) (by omega) (by omega)
  have hword : w = encode i := BitVec.eq_of_toNat_eq (by rw [encode_toNat, hi]; omega)
  exact ⟨i, decode_eq_command_iff.mpr hword, hi⟩

theorem blockStep_of_illegal {s : State} (h : decode s.pending = .illegalCommand) :
    blockStep s = .next (faultCompletion s .illegalCommand 0 0) := by
  rw [blockStep, h]
  rfl

/-- Settles O2: R92's fields decide whether PENDING is a command, and BLOCK's step of an illegal word is the fault completion. -/
theorem illegalWordsFault : Obligations.IllegalWordsFault :=
  fun _ => ⟨fun hblock hfields => (step_of_blockMoves hblock).trans (blockStep_of_illegal (decode_of_illegal_fields hfields)),
    decode_of_legal_fields⟩

/-- Settles O3: the legal words are encodings; OP is undefined in 0x0, 0x5 and 0xF, and RSV is not 0 in 0x11 and 0x80000001. -/
theorem tableWordsDecodeAsWritten : Obligations.TableWordsDecodeAsWritten :=
  ⟨decode_encode .decode, decode_encode .resolve, decode_encode .raster, decode_encode .compose,
    decode_of_illegal_fields (by decide), decode_of_illegal_fields (by decide), decode_of_illegal_fields (by decide),
    decode_of_illegal_fields (by decide), decode_of_illegal_fields (by decide)⟩

/-- The opcode table numbers a command word by its 32 bits. -/
theorem decodeTableWord_of_decode {w : Word} {i : Instr} (h : decode w = .command i) : decodeTableWord 32 w.toNat = some i := by
  rw [decodeTableWord, if_pos ⟨le_rfl, w.isLt⟩, BitVec.ofNat_toNat, BitVec.setWidth_eq, h]

/-- Settles O4: the table reads the word as the decoder does. -/
theorem decodeOfEncodeIsTheCommand : Obligations.DecodeOfEncodeIsTheCommand :=
  fun i => ⟨decode_encode i, decodeTableWord_of_decode (decode_encode i)⟩

/-- Settles O23: it is `wait`'s step, whatever STATUS says. -/
theorem waitPollsUntilNotBusy : Obligations.WaitPollsUntilNotBusy :=
  fun _ _ _ => step_of_wait

end Sys2Proof.Machine

/-! # What a command reads and writes (30_encoding.md R93 to R95, 40_tile_decoder.md R120 to R123) -/

namespace Sys2Proof.Machine

/-- Settles O55: a fault completion writes no output, and each success the outputs of its own command. -/
theorem commandsWriteOnlyTheirOutputs : Obligations.CommandsWriteOnlyTheirOutputs := by
  intro s t i h
  rcases exec_cases h with ⟨code, req, avail, -, -, rfl⟩ | ⟨rfl, -, -, rfl⟩ | ⟨rfl, rfl⟩ | ⟨rfl, scale, -, -, -, -, -, -, rfl⟩ |
    ⟨rfl, tpr, scale, -, rfl⟩
  · exact ⟨fun _ => ⟨rfl, rfl⟩, fun _ => ⟨rfl, rfl⟩, fun _ => ⟨rfl, rfl, rfl⟩, fun _ => ⟨rfl, rfl, rfl, rfl, rfl⟩⟩
  · exact ⟨absurd rfl, fun _ => ⟨rfl, rfl⟩, fun _ => ⟨rfl, rfl, rfl⟩, fun _ => ⟨rfl, rfl, rfl, rfl, rfl⟩⟩
  · exact ⟨fun _ => ⟨rfl, rfl⟩, absurd rfl, fun _ => ⟨rfl, rfl, rfl⟩, fun _ => ⟨rfl, rfl, rfl, rfl, rfl⟩⟩
  · exact ⟨fun _ => ⟨rfl, rfl⟩, fun _ => ⟨rfl, rfl⟩, absurd rfl, fun _ => ⟨rfl, rfl, rfl, rfl, rfl⟩⟩
  · exact ⟨fun _ => ⟨rfl, rfl⟩, fun _ => ⟨rfl, rfl⟩, fun _ => ⟨rfl, rfl, rfl⟩, absurd rfl⟩

/-- DECODE's completion of a written tile inside the buffer (R122, R254). -/
theorem exec_decode_of_fits {s : State} (hlen : s.inLen.toNat ≤ Config.params.inCap)
    (htile : (s.tileIndex.toNat + 1) * 16 ≤ s.inLen.toNat) (hwritten : InputsWritten .decode s) :
    exec .decode s = .next ((s.setCig (decodeTile s s.tileIndex.toNat)).completeSuccess false) :=
  (exec_of_written hwritten).trans (congrArg _ (decodeCommand_of_fits hlen htile))

/-- Settles O27: CIG is the grid of the tile, whose cells are the colour indices of R95. -/
theorem decodeCompletes : Obligations.DecodeCompletes := by
  intro s hlen htile hwritten
  refine ⟨_, exec_decode_of_fits hlen htile hwritten, fun y x hy hx => ?_, rfl⟩
  rw [State.completeSuccess_cig, State.setCig_cig, cell_decodeTile s _ (by omega) (by omega), colourIndex_toNat]
  rfl

/-- A grid holds the values of its own rows and no others. -/
theorem gridOf_congr {f g : Nat → Nat → BitVec 2} (h : ∀ y x, y < 8 → f y x = g y x) : gridOf f = gridOf g := by
  have hrow (y : Fin 8) : (fun x : Fin 8 => f y.val x.val) = fun x => g y.val x.val := funext fun x => h y.val x.val y.isLt
  simp only [gridOf, hrow]

/-- A tile's grid is read off its 16 bytes (R120, R121). -/
theorem decodeTile_congr {s u : State} {i : Nat} (h : ∀ k, k < 16 → s.inByte (16 * i + k) = u.inByte (16 * i + k)) :
    decodeTile s i = decodeTile u i := by
  refine gridOf_congr fun y x hy => ?_
  have hlo : loByte s i y = loByte u i y := h y (by omega)
  have hhi : hiByte s i y = hiByte u i y := by
    have := h (8 + y) (by omega)
    rwa [← Nat.add_assoc] at this
  rw [hlo, hhi]

/-- DECODE's checks and their sizes read TILE_INDEX and IN_LEN alone (R93, R122). -/
theorem decodeCommand_completion_congr (p : Params) {s u : State} (htile : s.tileIndex = u.tileIndex) (hlen : s.inLen = u.inLen) :
    (decodeCommand p s).status.errCode = (decodeCommand p u).status.errCode ∧
      (decodeCommand p s).errReq = (decodeCommand p u).errReq ∧ (decodeCommand p s).errAvail = (decodeCommand p u).errAvail := by
  simp only [decodeCommand, htile, hlen]
  split_ifs
  · exact ⟨rfl, rfl, rfl⟩
  · exact ⟨rfl, rfl, rfl⟩
  · exact ⟨rfl, rfl, rfl⟩

/-- Settles O30: the completion rests on the checks' operands, and the grid of a success on the tile's bytes. -/
theorem decodeReadsOnlyItsTile : Obligations.DecodeReadsOnlyItsTile := by
  intro s u t v htile hlen hbytes ht hv
  obtain ⟨hcode, hreq, havail⟩ : t.status.errCode = v.status.errCode ∧ t.errReq = v.errReq ∧ t.errAvail = v.errAvail := by
    rw [exec_next ht, exec_next hv]
    exact decodeCommand_completion_congr Config.params htile hlen
  refine ⟨hcode, hreq, havail, fun hnone => ?_⟩
  obtain ⟨-, -, rfl⟩ := exec_decode_success ht hnone
  obtain ⟨-, -, rfl⟩ := exec_decode_success hv (hcode ▸ hnone)
  rw [← htile] at hbytes
  simp only [State.completeSuccess_cig, State.setCig_cig, ← htile]
  exact decodeTile_congr hbytes

end Sys2Proof.Machine

/-! # DECODE's checks and the bits of a cell (40_tile_decoder.md R122, R124) -/

namespace Sys2Proof.Machine

/-- The first check's fault; its sizes are words, so that saturation changes neither (R122, R213). -/
theorem decodeCommand_of_inLen_gt {p : Params} {s : State} (h : p.inCap < s.inLen.toNat) :
    decodeCommand p s = faultCompletion s .capacity s.inLen.toNat p.inCap := by
  have hlen := s.inLen.isLt
  simp only [decodeCommand, u32]
  rw [if_pos h, sat32_of_lt hlen, sat32_of_lt (h.trans hlen), raiseFault_eq]

/-- The second check's fault; the needed size is computed exactly, then saturated (R122). -/
theorem decodeCommand_of_tile_outside {p : Params} {s : State} (h1 : s.inLen.toNat ≤ p.inCap)
    (h2 : s.inLen.toNat < (s.tileIndex.toNat + 1) * 16) :
    decodeCommand p s = faultCompletion s .range (min ((s.tileIndex.toNat + 1) * 16) (2 ^ 32 - 1)) s.inLen.toNat := by
  simp only [decodeCommand, u32]
  rw [if_neg (Nat.not_lt.mpr h1), if_pos h2, sat32_of_lt s.inLen.isLt, sat32, raiseFault_eq]

/-- A DECODE that fails a check completes with that check's fault, whatever IN holds (R213). -/
theorem exec_decode_of_fault {s : State} {code : ErrCode} {req avail : Nat} (hcode : code ≠ .none)
    (h : decodeCommand Config.params s = faultCompletion s code req avail) :
    exec .decode s = .next (faultCompletion s code req avail) := by
  rw [← h]
  refine exec_of_check (i := .decode) ?_
  rw [commandState, h]
  exact hcode

/-- Settles O28: each check's fault is its completion, and past both the written bytes decide between success and the claim's fault. -/
theorem decodeWholeRule : Obligations.DecodeWholeRule := by
  refine ⟨decode_encode .decode, fun s => ?_⟩
  dsimp only
  split_ifs with hcap hrange
  · rw [Nat.min_eq_left (Nat.le_sub_one_of_lt s.inLen.isLt)]
    exact exec_decode_of_fault (by decide) (decodeCommand_of_inLen_gt hcap)
  · exact exec_decode_of_fault (by decide) (decodeCommand_of_tile_outside (Nat.le_of_not_lt hcap) hrange)
  · have hlen := Nat.le_of_not_lt hcap
    have htile := Nat.le_of_not_lt hrange
    refine ⟨fun hwritten => ⟨_, exec_decode_of_fits hlen htile hwritten, rfl, rfl⟩, fun hunwritten => ?_⟩
    refine exec_of_unwritten hunwritten ?_
    rw [commandState, decodeCommand_of_fits hlen htile]
    rfl

/-- Bit `k` of the byte of IN at address `a`. -/
def State.inBit (s : State) (a k : Nat) : Bool := (s.inByte a).getLsbD k

/-- IN with bit `k` of the byte at address `a` flipped. -/
def State.flipInBit (s : State) (a k : Nat) : State :=
  { s with inMem := s.inMem.write a (s.inByte a ^^^ BitVec.twoPow 8 k) }

theorem State.inBit_flipInBit (s : State) (a b : Nat) {j k : Nat} (hj : j < 8) :
    (s.flipInBit a k).inBit b j = (s.inBit b j ^^ decide (b = a ∧ j = k)) := by
  by_cases hb : b = a
  · subst hb
    have hbyte : (s.flipInBit b k).inByte b = s.inByte b ^^^ BitVec.twoPow 8 k :=
      State.inByte_of_written (Memory.read_write_self s.inMem b _)
    simp [State.inBit, hbyte, hj]
  · have hbyte : (s.flipInBit a k).inByte b = s.inByte b :=
      State.inByte_congr b (Memory.read_write_other s.inMem a b _ hb) rfl
    simp [State.inBit, hbyte, hb]

/-- R121: a cell's number is made of its two bits. -/
theorem cell_decodeTile_toNat (s : State) (i : Nat) {y x : Nat} (hy : y ≤ 7) (hx : x ≤ 7) :
    (cell (decodeTile s i) y x).toNat =
      2 * (s.inBit (16 * i + 8 + y) (7 - x)).toNat + (s.inBit (16 * i + y) (7 - x)).toNat := by
  rw [cell_decodeTile s i (by omega) (by omega), colourIndex_toNat]
  rfl

section
variable (s : State) (i : Nat) {y x y' x' : Nat} (hy : y ≤ 7) (hx : x ≤ 7) (hy' : y' ≤ 7) (hx' : x' ≤ 7)
include hy hx hy' hx'

/-- A flipped bit of the low plane is the low bit of its own cell and no bit of another (R124). -/
theorem cell_decodeTile_flip_low :
    (cell (decodeTile (s.flipInBit (16 * i + y) (7 - x)) i) y' x').toNat =
      2 * (s.inBit (16 * i + 8 + y') (7 - x')).toNat +
        (s.inBit (16 * i + y') (7 - x') ^^ decide ((y', x') = (y, x))).toNat := by
  have hhigh : ¬ (16 * i + 8 + y' = 16 * i + y ∧ 7 - x' = 7 - x) := by omega
  have hlow : (16 * i + y' = 16 * i + y ∧ 7 - x' = 7 - x) ↔ (y', x') = (y, x) := by
    rw [Prod.mk.injEq]
    omega
  rw [cell_decodeTile_toNat _ i hy' hx', State.inBit_flipInBit s _ _ (by omega), State.inBit_flipInBit s _ _ (by omega),
    decide_eq_false hhigh, Bool.xor_false, decide_eq_decide.mpr hlow]

/-- A flipped bit of the high plane is the high bit of its own cell and no bit of another (R124). -/
theorem cell_decodeTile_flip_high :
    (cell (decodeTile (s.flipInBit (16 * i + 8 + y) (7 - x)) i) y' x').toNat =
      2 * (s.inBit (16 * i + 8 + y') (7 - x') ^^ decide ((y', x') = (y, x))).toNat +
        (s.inBit (16 * i + y') (7 - x')).toNat := by
  have hlow : ¬ (16 * i + y' = 16 * i + 8 + y ∧ 7 - x' = 7 - x) := by omega
  have hhigh : (16 * i + 8 + y' = 16 * i + 8 + y ∧ 7 - x' = 7 - x) ↔ (y', x') = (y, x) := by
    rw [Prod.mk.injEq]
    omega
  rw [cell_decodeTile_toNat _ i hy' hx', State.inBit_flipInBit s _ _ (by omega), State.inBit_flipInBit s _ _ (by omega),
    decide_eq_false hlow, Bool.xor_false, decide_eq_decide.mpr hhigh]

end

theorem toNat_not_eq_add_one_or (b : Bool) : (!b).toNat = b.toNat + 1 ∨ (!b).toNat + 1 = b.toNat := by
  cases b <;> decide

/-- The flipped bit of the low plane counts 1 (R124). -/
theorem cell_decodeTile_flip_low_self (s : State) (i : Nat) {y x : Nat} (hy : y ≤ 7) (hx : x ≤ 7) :
    (cell (decodeTile (s.flipInBit (16 * i + y) (7 - x)) i) y x).toNat = (cell (decodeTile s i) y x).toNat + 1 ∨
      (cell (decodeTile (s.flipInBit (16 * i + y) (7 - x)) i) y x).toNat + 1 = (cell (decodeTile s i) y x).toNat := by
  have hflip := toNat_not_eq_add_one_or (s.inBit (16 * i + y) (7 - x))
  rw [cell_decodeTile_flip_low s i hy hx hy hx, cell_decodeTile_toNat s i hy hx, decide_eq_true rfl, Bool.xor_true]
  omega

/-- The flipped bit of the high plane counts 2 (R124). -/
theorem cell_decodeTile_flip_high_self (s : State) (i : Nat) {y x : Nat} (hy : y ≤ 7) (hx : x ≤ 7) :
    (cell (decodeTile (s.flipInBit (16 * i + 8 + y) (7 - x)) i) y x).toNat = (cell (decodeTile s i) y x).toNat + 2 ∨
      (cell (decodeTile (s.flipInBit (16 * i + 8 + y) (7 - x)) i) y x).toNat + 2 = (cell (decodeTile s i) y x).toNat := by
  have hflip := toNat_not_eq_add_one_or (s.inBit (16 * i + 8 + y) (7 - x))
  rw [cell_decodeTile_flip_high s i hy hx hy hx, cell_decodeTile_toNat s i hy hx, decide_eq_true rfl, Bool.xor_true]
  omega

/-- Settles O29: a cell's number is made of its two plane bits, and a flip negates one of them in one cell. -/
theorem decodedPixelDependsOnItsTwoBits : Obligations.DecodedPixelDependsOnItsTwoBits := by
  intro s i y x hy hx
  refine ⟨fun y' x' hy' hx' hne => ⟨BitVec.eq_of_toNat_eq ?_, BitVec.eq_of_toNat_eq ?_⟩,
    cell_decodeTile_flip_low_self s i hy hx, cell_decodeTile_flip_high_self s i hy hx⟩
  · refine (cell_decodeTile_flip_low s i hy hx hy' hx').trans ?_
    rw [cell_decodeTile_toNat s i hy' hx', decide_eq_false hne, Bool.xor_false]
  · refine (cell_decodeTile_flip_high s i hy hx hy' hx').trans ?_
    rw [cell_decodeTile_toNat s i hy' hx', decide_eq_false hne, Bool.xor_false]

end Sys2Proof.Machine

/-! # RESOLVE (41_palette_resolver.md R140 to R144) -/

namespace Sys2Proof.Machine

theorem lookup_eq (p : Params) (w : Word) : lookup p w = p.ct (BitVec.ofNat 6 (w.toNat % 64)) := by
  rw [lookup, tableIndex_eq]

/-- Raw indices that agree modulo 64 select one colour (R144). -/
theorem lookup_congr (p : Params) {w w' : Word} (h : w.toNat % 64 = w'.toNat % 64) : lookup p w = lookup p w' := by
  rw [lookup_eq, lookup_eq, h]

theorem resolve_congr (p : Params) {psel psel' : Vector Word 4} (h : ∀ n : Fin 4, psel[n].toNat % 64 = psel'[n].toNat % 64) :
    resolve p psel = resolve p psel' := by
  refine Vector.ext fun i hi => ?_
  calc (resolve p psel)[i]
      = lookup p psel[i] := resolve_get p psel ⟨i, hi⟩
    _ = lookup p psel'[i] := lookup_congr p (h ⟨i, hi⟩)
    _ = (resolve p psel')[i] := (resolve_get p psel' ⟨i, hi⟩).symm

/-- The palette that RESOLVE leaves is a function of PSEL (R140, R142). -/
theorem exec_resolve_rpal {s t : State} (h : exec .resolve s = .next t) : t.rpal = resolve Config.params s.psel := by
  rw [exec_resolve_eq] at h
  cases h
  rw [State.completeSuccess_rpal, State.setRpal_rpal]

/-- Settles O31: each entry of the palette is the lookup of its index, and a colour word has 24 bits. -/
theorem resolveCompletes : Obligations.ResolveCompletes := by
  refine ⟨decode_encode .resolve, fun s => ⟨_, exec_resolve_eq s, fun n => ⟨?_, colourWord_lt _⟩, rfl⟩⟩
  rw [exec_resolve_rpal (exec_resolve_eq s), resolve_get, lookup_eq]

/-- Settles O32: a lookup reads its raw index modulo 64, and 64, 67 and -1 are 0, 3 and 63 there. -/
theorem paletteIndicesAlias : Obligations.PaletteIndicesAlias := by
  refine ⟨fun s u t v hpsel ht hv => ?_, lookup_congr _ (by decide), lookup_congr _ (by decide), lookup_eq _ 0, lookup_eq _ 3,
    lookup_eq _ (-1)⟩
  rw [exec_resolve_rpal ht, exec_resolve_rpal hv, resolve_congr _ hpsel]

end Sys2Proof.Machine

/-! # RASTER (42_tile_rasterizer.md R160 to R164)

RASTER's checks give one fault each. What a success leaves in RB is stated once, pixel by pixel; the squares, the change of scale and the
closed form of a pixel are read off it. -/

namespace Sys2Proof.Machine

theorem mux_eq_getElem? (c : BitVec 2) (rp : Palette) : some (mux c rp) = rp[c.toNat]? :=
  (Vector.getElem?_eq_getElem c.isLt).symm

/-- Every pixel of the square of cell `(y, x)` has the colour the cell selects (R161, R163). -/
theorem rasterize_of_mem_square (g : Grid) (rp : Palette) {scale y x py px : Nat} (hy : y * scale ≤ py) (hy' : py < (y + 1) * scale)
    (hx : x * scale ≤ px) (hx' : px < (x + 1) * scale) : rasterize g rp scale py px = mux (cell g y x) rp := by
  rw [rasterize, Nat.div_eq_of_lt_le hy hy', Nat.div_eq_of_lt_le hx hx']

/-- A square's pixels at any scale have the colour of its one pixel at scale 1 (R164). -/
theorem rasterize_eq_scale_one (g : Grid) (rp : Palette) (y x : Nat) {scale a b : Nat} (ha : a < scale) (hb : b < scale) :
    rasterize g rp scale (y * scale + a) (x * scale + b) = rasterize g rp 1 y x := by
  have hrow : y * scale + a < (y + 1) * scale := rowCol_lt (Nat.lt_succ_self y) ha
  have hcol : x * scale + b < (x + 1) * scale := rowCol_lt (Nat.lt_succ_self x) hb
  rw [rasterize_of_mem_square g rp (Nat.le_add_right ..) hrow (Nat.le_add_right ..) hcol, rasterize, Nat.div_one, Nat.div_one]

section
variable {p : Params} {s : State}

/-- RASTER's first check (R162, R213). -/
theorem rasterCommand_of_notReady (h : s.status.cigValid = false ∨ s.status.rpalValid = false) :
    rasterCommand p s = faultCompletion s .notReady 0 0 := if_pos h

variable (hready : ¬ (s.status.cigValid = false ∨ s.status.rpalValid = false))
include hready

/-- RASTER's second check (R162, R213). -/
theorem rasterCommand_of_scale_lt_one (h : s.scale.toInt < 1) : rasterCommand p s = faultCompletion s .badScale 0 0 :=
  (if_neg hready).trans (if_pos h)

variable (hscale : ¬ s.scale.toInt < 1)
include hscale

/-- RASTER's third check: the side is computed exactly, then saturated; MAX_DIM is a word (R9, R162). -/
theorem rasterCommand_of_side_gt (hmax : p.maxDim ≤ 2 ^ 32 - 1) (h : 8 * s.scale.toInt.toNat > p.maxDim) :
    rasterCommand p s = faultCompletion s .capacity (min (8 * s.scale.toInt.toNat) (2 ^ 32 - 1)) p.maxDim := by
  simp only [rasterCommand, s32]
  rw [if_neg hready, if_neg hscale, if_pos h, sat32_of_lt (Nat.lt_of_le_sub_one (by decide) hmax), sat32, raiseFault_eq]

/-- RASTER's last check: both sizes are computed exactly, then saturated (R162). -/
theorem rasterCommand_of_pixels_gt (hside : ¬ 8 * s.scale.toInt.toNat > p.maxDim)
    (h : 8 * s.scale.toInt.toNat * (8 * s.scale.toInt.toNat) > p.rbCap) :
    rasterCommand p s =
      faultCompletion s .capacity (min (8 * s.scale.toInt.toNat * (8 * s.scale.toInt.toNat)) (2 ^ 32 - 1)) (min p.rbCap (2 ^ 32 - 1)) := by
  simp only [rasterCommand, s32]
  rw [if_neg hready, if_neg hscale, if_neg hside, if_pos h, sat32, sat32, raiseFault_eq]

end

/-- A RASTER whose block fits succeeds (R162). -/
theorem rasterCommand_errCode_of_fits {p : Params} {s : State} {scale : Nat} (hc : s.status.cigValid = true)
    (hp : s.status.rpalValid = true) (hs : s.scale.toInt = scale) (h1 : 1 ≤ scale) (hd : 8 * scale ≤ p.maxDim)
    (hcap : 8 * scale * (8 * scale) ≤ p.rbCap) : (rasterCommand p s).status.errCode = .none := by
  rw [rasterCommand_of_fits hc hp hs h1 hd hcap]
  rfl

section
variable {s t : State} (h : exec .raster s = .next t) (he : t.status.errCode = .none)
include h he

/-- A RASTER that succeeds changes RB, RB_DIM, RB_VALID and the completion fields (R93, R215). -/
theorem exec_raster_frame :
    t = { successCompletion s false with
          rb := t.rb
          rbDim := t.rbDim
          status := { (successCompletion s false).status with rbValid := true } } := by
  obtain ⟨scale, -, -, -, -, -, -, rfl⟩ := exec_raster_success h he
  rfl

theorem exec_raster_length : t.rb.length = 8 * s.scale.toInt.toNat * (8 * s.scale.toInt.toNat) := by
  obtain ⟨scale, hscale, -, -, -, -, -, rfl⟩ := exec_raster_success h he
  rw [hscale, Int.toNat_natCast]
  exact pixelsOf_length ..

theorem exec_raster_pixel {py px : Nat} (hpy : py < 8 * s.scale.toInt.toNat) (hpx : px < 8 * s.scale.toInt.toNat) :
    t.rb[py * (8 * s.scale.toInt.toNat) + px]? = some (rasterize s.cig s.rpal s.scale.toInt.toNat py px) := by
  obtain ⟨hside, hpixels⟩ := exec_raster_pixels h he
  rw [hside] at hpixels
  exact hpixels py px hpy hpx

/-- Every pixel of RB is an entry of the palette (R163). -/
theorem exec_raster_mem_palette {c : Colour} (hc : c ∈ t.rb) : ∃ n : Fin 4, c = s.rpal[n] := by
  obtain ⟨scale, -, -, -, -, -, -, rfl⟩ := exec_raster_success h he
  obtain ⟨py, px, rfl⟩ := mem_pixelsOf hc
  exact ⟨_, mux_eq_get (cell s.cig (py / scale) (px / scale)) s.rpal⟩

end

/-- Settles O33: the checks pass, and a pixel of the block is the palette's entry that its cell selects. -/
theorem rasterCompletes : Obligations.RasterCompletes := by
  intro s scale hcig hrpal hscale hpos hdim hcap
  have he := rasterCommand_errCode_of_fits hcig hrpal hscale hpos hdim hcap
  have hnat : s.scale.toInt.toNat = scale := by rw [hscale, Int.toNat_natCast]
  subst hnat
  refine ⟨_, rfl, (exec_raster_pixels rfl he).1, fun py px hpy hpx => ?_, exec_raster_frame rfl he⟩
  exact (exec_raster_pixel rfl he hpy hpx).trans (mux_eq_getElem? ..)

/-- Settles O34: each check that fails gives its own fault, and past all four the block fits. -/
theorem rasterWholeRule : Obligations.RasterWholeRule := by
  refine ⟨decode_encode .raster, fun s => ⟨rasterCommand Config.params s, rfl, ?_⟩⟩
  obtain ⟨-, -, -, -, hmax⟩ := params_bounds
  dsimp only
  split_ifs with hready hscale hside hpixels
  · exact rasterCommand_of_notReady hready
  · exact rasterCommand_of_scale_lt_one hready hscale
  · exact rasterCommand_of_side_gt hready hscale hmax hside
  · exact rasterCommand_of_pixels_gt hready hscale hside hpixels
  · rw [not_or, Bool.not_eq_false, Bool.not_eq_false] at hready
    obtain ⟨hcig, hrpal⟩ := hready
    have he := rasterCommand_errCode_of_fits (scale := s.scale.toInt.toNat) hcig hrpal (by omega) (by omega)
      (Nat.le_of_not_lt hside) (Nat.le_of_not_lt hpixels)
    exact ⟨(exec_raster_pixels rfl he).1, exec_raster_length rfl he, fun py px => exec_raster_pixel rfl he, exec_raster_frame rfl he⟩

/-- Settles O35: a pixel of a cell's square lies in the block, and `rasterize` is one colour on the square. -/
theorem rasterSquaresAreSolid : Obligations.RasterSquaresAreSolid := by
  intro s t h he
  refine ⟨exec_raster_length h he, fun c => exec_raster_mem_palette h he, fun y x py px hy hx hrow hrow' hcol hcol' => ?_⟩
  have hpy := hrow'.trans_le (Nat.mul_le_mul_right s.scale.toInt.toNat (Nat.succ_le_succ hy))
  have hpx := hcol'.trans_le (Nat.mul_le_mul_right s.scale.toInt.toNat (Nat.succ_le_succ hx))
  rw [exec_raster_pixel h he hpy hpx, rasterize_of_mem_square _ _ hrow hrow' hcol hcol']

/-- Settles O36: both blocks hold `rasterize` of one grid and palette, which is the same at a square and at its pixel at scale 1. -/
theorem rasterScaleInvariance : Obligations.RasterScaleInvariance := by
  refine ⟨fun g rp scale y x a b _ _ _ ha hb => rasterize_eq_scale_one g rp y x ha hb, ?_⟩
  intro s t v ht hv het hev scale y x a b hy hx ha hb
  have hrow : y * scale + a < 8 * scale := rowCol_lt (Nat.lt_succ_of_le hy) ha
  have hcol : x * scale + b < 8 * scale := rowCol_lt (Nat.lt_succ_of_le hx) hb
  calc t.rb[(y * scale + a) * (8 * scale) + (x * scale + b)]?
      = some (rasterize s.cig s.rpal scale (y * scale + a) (x * scale + b)) := exec_raster_pixel ht het hrow hcol
    _ = some (rasterize s.cig s.rpal 1 y x) := congrArg some (rasterize_eq_scale_one _ _ y x ha hb)
    _ = v.rb[y * 8 + x]? := (exec_raster_pixel hv hev (Nat.lt_succ_of_le hy) (Nat.lt_succ_of_le hx)).symm

/-- RASTER's checks, their sizes and its block read CIG, RPAL, SCALE and two valid bits alone (R93, R162). -/
theorem rasterCommand_congr (p : Params) {s u : State} (hcig : s.cig = u.cig) (hrpal : s.rpal = u.rpal) (hscale : s.scale = u.scale)
    (hcigValid : s.status.cigValid = u.status.cigValid) (hrpalValid : s.status.rpalValid = u.status.rpalValid) :
    (rasterCommand p s).status.errCode = (rasterCommand p u).status.errCode ∧ (rasterCommand p s).errReq = (rasterCommand p u).errReq ∧
      (rasterCommand p s).errAvail = (rasterCommand p u).errAvail ∧
      ((rasterCommand p s).status.errCode = .none →
        (rasterCommand p s).rb = (rasterCommand p u).rb ∧ (rasterCommand p s).rbDim = (rasterCommand p u).rbDim) := by
  simp only [rasterCommand, hcig, hrpal, hscale, hcigValid, hrpalValid]
  split_ifs
  · exact ⟨rfl, rfl, rfl, nofun⟩
  · exact ⟨rfl, rfl, rfl, nofun⟩
  · exact ⟨rfl, rfl, rfl, nofun⟩
  · exact ⟨rfl, rfl, rfl, nofun⟩
  · exact ⟨rfl, rfl, rfl, fun _ => ⟨rfl, rfl⟩⟩

/-- Settles O37: equal operands fail the same check or fill the same block. -/
theorem rasterReadsOnlyItsOperands : Obligations.RasterReadsOnlyItsOperands := by
  intro s u t v hcig hrpal hscale hcigValid hrpalValid ht hv
  rw [exec_next ht, exec_next hv]
  exact rasterCommand_congr Config.params hcig hrpal hscale hcigValid hrpalValid

end Sys2Proof.Machine

/-! # COMPOSE (43_sheet_compositor.md R180 to R191)

COMPOSE's checks give one fault each. Where all of them pass, what is left in FB, in its size registers and in STATUS is stated once, on
any parameters; the closed form, the empty sheet, the two rows and the trailing byte are read off it. -/

namespace Sys2Proof.Machine

section
variable {p : Params} {s : State}

/-- COMPOSE's first check; its sizes are words, so that saturation changes neither (R182, R213). -/
theorem composeCommand_of_inLen_gt (h : s.inLen.toNat > p.inCap) :
    composeCommand p s = faultCompletion s .capacity s.inLen.toNat p.inCap := by
  have hlen := s.inLen.isLt
  simp only [composeCommand, u32]
  rw [if_pos h, sat32_of_lt hlen, sat32_of_lt (h.trans hlen), raiseFault_eq]

variable (hlen : ¬ s.inLen.toNat > p.inCap)
include hlen

/-- COMPOSE's second check (R182, R213). -/
theorem composeCommand_of_tpr_lt_one (h : s.tilesPerRow.toInt < 1) : composeCommand p s = faultCompletion s .badTpr 0 0 :=
  (if_neg hlen).trans (if_pos h)

variable (htpr : ¬ s.tilesPerRow.toInt < 1)
include htpr

/-- COMPOSE's third check (R182, R213). -/
theorem composeCommand_of_scale_lt_one (h : s.scale.toInt < 1) : composeCommand p s = faultCompletion s .badScale 0 0 :=
  (if_neg hlen).trans ((if_neg htpr).trans (if_pos h))

variable (hscale : ¬ s.scale.toInt < 1)
include hscale

/-- COMPOSE's fourth check: the width is computed exactly, then saturated; MAX_DIM is a word (R9, R182). -/
theorem composeCommand_of_width_gt (hmax : p.maxDim ≤ 2 ^ 32 - 1)
    (h : s.tilesPerRow.toInt.toNat * (8 * s.scale.toInt.toNat) > p.maxDim) :
    composeCommand p s =
      faultCompletion s .capacity (min (s.tilesPerRow.toInt.toNat * (8 * s.scale.toInt.toNat)) (2 ^ 32 - 1)) p.maxDim := by
  simp only [composeCommand, u32, s32]
  rw [if_neg hlen, if_neg htpr, if_neg hscale, if_pos h, sat32_of_lt (Nat.lt_of_le_sub_one (by decide) hmax), sat32, raiseFault_eq]

variable (hwidth : ¬ s.tilesPerRow.toInt.toNat * (8 * s.scale.toInt.toNat) > p.maxDim)
include hwidth

/-- COMPOSE's fifth check: the height is computed exactly, then saturated (R182). -/
theorem composeCommand_of_height_gt (hmax : p.maxDim ≤ 2 ^ 32 - 1)
    (h : ceilDiv (s.inLen.toNat / 16) s.tilesPerRow.toInt.toNat * (8 * s.scale.toInt.toNat) > p.maxDim) :
    composeCommand p s =
      faultCompletion s .capacity
        (min (ceilDiv (s.inLen.toNat / 16) s.tilesPerRow.toInt.toNat * (8 * s.scale.toInt.toNat)) (2 ^ 32 - 1)) p.maxDim := by
  simp only [composeCommand, u32, s32]
  rw [if_neg hlen, if_neg htpr, if_neg hscale, if_neg hwidth, if_pos h, sat32_of_lt (Nat.lt_of_le_sub_one (by decide) hmax), sat32,
    raiseFault_eq]

variable (hheight : ¬ ceilDiv (s.inLen.toNat / 16) s.tilesPerRow.toInt.toNat * (8 * s.scale.toInt.toNat) > p.maxDim)
include hheight

/-- COMPOSE's last check: both sizes are computed exactly, then saturated (R182). -/
theorem composeCommand_of_pixels_gt
    (h : s.tilesPerRow.toInt.toNat * (8 * s.scale.toInt.toNat) *
      (ceilDiv (s.inLen.toNat / 16) s.tilesPerRow.toInt.toNat * (8 * s.scale.toInt.toNat)) > p.fbCap) :
    composeCommand p s =
      faultCompletion s .capacity
        (min (s.tilesPerRow.toInt.toNat * (8 * s.scale.toInt.toNat) *
          (ceilDiv (s.inLen.toNat / 16) s.tilesPerRow.toInt.toNat * (8 * s.scale.toInt.toNat))) (2 ^ 32 - 1))
        (min p.fbCap (2 ^ 32 - 1)) := by
  simp only [composeCommand, u32, s32]
  rw [if_neg hlen, if_neg htpr, if_neg hscale, if_neg hwidth, if_neg hheight, if_pos h, sat32, sat32, raiseFault_eq]

/-- Past all six checks the sheet fits (R182). -/
theorem sheetFits_of_checks
    (hpixels : ¬ s.tilesPerRow.toInt.toNat * (8 * s.scale.toInt.toNat) *
      (ceilDiv (s.inLen.toNat / 16) s.tilesPerRow.toInt.toNat * (8 * s.scale.toInt.toNat)) > p.fbCap) :
    SheetFits p s s.tilesPerRow.toInt.toNat s.scale.toInt.toNat where
  tprIs := (Int.toNat_of_nonneg (by omega)).symm
  scaleIs := (Int.toNat_of_nonneg (by omega)).symm
  tprPos := by omega
  scalePos := by omega
  buffer := Nat.le_of_not_lt hlen
  width := Nat.le_of_not_lt hwidth
  height := Nat.le_of_not_lt hheight
  pixels := Nat.le_of_not_lt hpixels

end

section
variable {p : Params} {s : State} {tpr scale : Nat} (fits : SheetFits p s tpr scale)
include fits

theorem SheetFits.fb_eq : (composeCommand p s).fb = sheetOf p s tpr scale := by
  rw [composeCommand_of_fits fits, State.completeSuccess_fb, State.setFb_fb]

theorem SheetFits.fbWidth_toNat (hmax : p.maxDim ≤ 2 ^ 32 - 1) : (composeCommand p s).fbWidth.toNat = tpr * (8 * scale) := by
  rw [composeCommand_of_fits fits, State.completeSuccess_fbWidth, State.setFb_fbWidth, dimension_toNat hmax fits.width]

theorem SheetFits.fbHeight_toNat (hmax : p.maxDim ≤ 2 ^ 32 - 1) :
    (composeCommand p s).fbHeight.toNat = ceilDiv (s.inLen.toNat / 16) tpr * (8 * scale) := by
  rw [composeCommand_of_fits fits, State.completeSuccess_fbHeight, State.setFb_fbHeight, dimension_toNat hmax fits.height]

theorem SheetFits.tileCount_eq : (composeCommand p s).tileCount = BitVec.ofNat 32 (s.inLen.toNat / 16) := by
  rw [composeCommand_of_fits fits, State.completeSuccess_tileCount, State.setFb_tileCount]

theorem SheetFits.status_eq :
    (composeCommand p s).status = { s.status with fbValid := true }.afterSuccess (truncationWarning s.inLen.toNat) := by
  rw [composeCommand_of_fits fits, State.completeSuccess_status, State.setFb_status]

theorem SheetFits.errCode_eq : (composeCommand p s).status.errCode = .none := congrArg Status.errCode fits.status_eq

theorem SheetFits.done_eq : (composeCommand p s).status.done = true := congrArg Status.done fits.status_eq

theorem SheetFits.fbValid_eq : (composeCommand p s).status.fbValid = true := congrArg Status.fbValid fits.status_eq

theorem SheetFits.warn_eq : (composeCommand p s).status.warn = truncationWarning s.inLen.toNat :=
  congrArg Status.warn fits.status_eq

/-- A COMPOSE that succeeds changes FB, its size registers, TILE_COUNT, FB_VALID and the completion fields (R93, R215). -/
theorem SheetFits.frame :
    composeCommand p s = { successCompletion s (s.inLen.toNat % 16 ≠ 0) with
      fb := (composeCommand p s).fb
      fbWidth := (composeCommand p s).fbWidth
      fbHeight := (composeCommand p s).fbHeight
      tileCount := (composeCommand p s).tileCount
      status := { (successCompletion s (s.inLen.toNat % 16 ≠ 0)).status with fbValid := true } } := by
  rw [composeCommand_of_fits fits]
  rfl

end

theorem tileCount_toNat (w : Word) : (BitVec.ofNat 32 (w.toNat / 16)).toNat = w.toNat / 16 := by
  rw [BitVec.toNat_ofNat]
  exact Nat.mod_eq_of_lt (by omega)

/-- A command that fails a check completes with that check's fault, whatever IN holds (R213). -/
theorem exec_of_faultCompletion {i : Instr} {s : State} {code : ErrCode} {req avail : Nat} (hcode : code ≠ .none)
    (h : commandState i s = faultCompletion s code req avail) : exec i s = .next (faultCompletion s code req avail) := by
  rw [← h]
  refine exec_of_check ?_
  rw [h]
  exact hcode

/-- Settles O38: the checks pass, and each pixel of the sheet is its tile's, or the background. -/
theorem composeClosedForm : Obligations.ComposeClosedForm := by
  intro s tpr scale htpr hscale htprPos hscalePos n d w h hlen hwidth hheight hpixels hwritten
  obtain ⟨-, -, -, -, hmax⟩ := params_bounds
  have hw : w = tpr * (8 * scale) := Nat.mul_assoc tpr 8 scale
  have hh : h = ceilDiv n tpr * (8 * scale) := Nat.mul_assoc (ceilDiv n tpr) 8 scale
  rw [hw] at hwidth hpixels ⊢
  rw [hh] at hheight hpixels ⊢
  have fits : SheetFits Config.params s tpr scale := ⟨htpr, hscale, htprPos, hscalePos, hlen, hwidth, hheight, hpixels⟩
  refine ⟨composeCommand Config.params s, exec_of_written hwritten, fits.fbWidth_toNat hmax, fits.fbHeight_toNat hmax, ?_, ?_,
    fun y x hy hx => ?_, fits.frame⟩
  · rw [fits.tileCount_eq, tileCount_toNat]
  · rw [fits.fb_eq, sheetOf_length, Nat.mul_comm]
  · rw [fits.fb_eq]
    exact sheetOf_get Config.params s hscalePos hy hx

/-- Settles O39: each check that fails gives its own fault, and past all six the written bytes decide between success and the claim's
fault. -/
theorem composeChecksInOrder : Obligations.ComposeChecksInOrder := by
  refine ⟨decode_encode .compose, fun s => ?_⟩
  obtain ⟨-, -, -, -, hmax⟩ := params_bounds
  dsimp only
  split_ifs with hlen htpr hscale hwidth hheight hpixels
  · exact exec_of_faultCompletion (by decide) (composeCommand_of_inLen_gt hlen)
  · exact exec_of_faultCompletion (by decide) (composeCommand_of_tpr_lt_one hlen htpr)
  · exact exec_of_faultCompletion (by decide) (composeCommand_of_scale_lt_one hlen htpr hscale)
  · exact exec_of_faultCompletion (by decide) (composeCommand_of_width_gt hlen htpr hscale hmax hwidth)
  · exact exec_of_faultCompletion (by decide) (composeCommand_of_height_gt hlen htpr hscale hwidth hmax hheight)
  · exact exec_of_faultCompletion (by decide) (composeCommand_of_pixels_gt hlen htpr hscale hwidth hheight hpixels)
  · have fits := sheetFits_of_checks hlen htpr hscale hwidth hheight hpixels
    exact ⟨fun hwritten => ⟨_, exec_of_written hwritten, fits.errCode_eq, fits.done_eq, fits.fbValid_eq⟩,
      fun hunwritten => exec_of_unwritten hunwritten fits.errCode_eq⟩

/-- Settles O40: the sheet's pixel at a tile's square is the tile's raster pixel. -/
theorem tilesArePlacedRowMajor : Obligations.TilesArePlacedRowMajor := by
  intro s t h he tpr scale d i py px
  exact exec_compose_tile_pixel h he

/-- Settles O41: a pixel whose grid position names a tile of the buffer lies in that tile's square. -/
theorem uncoveredPixelsAreBlack : Obligations.UncoveredPixelsAreBlack := by
  intro p s hmax he
  refine ⟨exec_of_written, ?_⟩
  obtain ⟨tpr, scale, fits, -⟩ := composeCommand_success he
  dsimp only
  rw [fits.fb_eq, fits.fbWidth_toNat hmax, fits.fbHeight_toNat hmax, fits.tprIs, fits.scaleIs, Int.toNat_natCast, Int.toNat_natCast]
  intro y x hy hx huncovered
  have hd : 1 ≤ 8 * scale := Nat.mul_pos (by decide) fits.scalePos
  have hnoTile : ¬ y / (8 * scale) * tpr + x / (8 * scale) < s.inLen.toNat / 16 := fun hi =>
    huncovered _ hi ((inSquare_iff _ hd hx).mpr rfl)
  refine ⟨black, ?_, rfl, rfl, rfl⟩
  rw [sheetOf_get p s fits.scalePos hy hx, if_neg hnoTile]

/-- Settles O43: what a pixel holds depends on which tiles are in the list, not on their order (R188). -/
theorem pasteOrderDoesNotMatter : Obligations.PasteOrderDoesNotMatter := by
  intro s rp tpr scale n order sheet htpr hscale hperm
  have hw : 0 < tpr * (8 * scale) := Nat.mul_pos htpr (Nat.mul_pos (by decide) hscale)
  refine List.ext_getElem? fun k => ?_
  by_cases hk : k < sheet.length
  · obtain ⟨y, x, hx, rfl⟩ : ∃ y x, x < tpr * (8 * scale) ∧ k = y * (tpr * (8 * scale)) + x :=
      ⟨_, _, Nat.mod_lt k hw, (Nat.div_add_mod' k _).symm⟩
    simp only [pasteTiles_get s rp _ sheet hscale hx hk, hperm.mem_iff]
  · have hout := Nat.le_of_not_lt hk
    rw [List.getElem?_eq_none (by rwa [pasteTiles_length]), List.getElem?_eq_none (by rwa [pasteTiles_length])]

/-- Settles O44: no whole tile means no row, no pixel, and no byte of IN that COMPOSE reads. -/
theorem emptySheet : Obligations.EmptySheet := by
  intro s tpr scale htpr hscale htprPos hscalePos hlen hwidth
  obtain ⟨hinCap, -, -, -, hmax⟩ := params_bounds
  rw [Nat.mul_assoc] at hwidth ⊢
  have hn : s.inLen.toNat / 16 = 0 := Nat.div_eq_of_lt hlen
  have hrows : ceilDiv (s.inLen.toNat / 16) tpr * (8 * scale) = 0 := by
    rw [hn, ceilDiv, Nat.div_eq_of_lt (by omega), Nat.zero_mul]
  have fits : SheetFits Config.params s tpr scale :=
    ⟨htpr, hscale, htprPos, hscalePos, by omega, hwidth, by omega, by rw [hrows]; exact Nat.zero_le _⟩
  have hwritten : InputsWritten .compose s := fun a ha => by omega
  refine ⟨_, exec_of_written hwritten, ?_, ?_, fits.fbWidth_toNat hmax, ?_, fits.fbValid_eq, fits.done_eq,
    fits.errCode_eq, ?_⟩
  · rw [commandState, fits.fb_eq, ← List.length_eq_zero_iff, sheetOf_length, hrows, Nat.zero_mul]
  · exact BitVec.eq_of_toNat_eq ((fits.fbHeight_toNat hmax).trans hrows)
  · exact fits.tileCount_eq.trans (congrArg _ hn)
  · rw [commandState, fits.warn_eq, truncationWarning, decide_eq_true_eq, Nat.mod_eq_of_lt hlen]
    exact BitVec.toNat_ne_iff_ne (y := 0)

/-- Settles O45: 17 tiles in rows of 16 make two rows, and tile 16 is the first of the second. -/
theorem seventeenTilesMakeTwoRows : Obligations.SeventeenTilesMakeTwoRows := by
  intro p s scale hn htpr hscale hscalePos hlen hwidth hmax hpixels
  have hwidth16 : 16 * (8 * scale) = 128 * scale := by ring
  have hheight : ceilDiv (s.inLen.toNat / 16) 16 * (8 * scale) = 16 * scale := by
    rw [hn, show ceilDiv 17 16 = 2 from rfl]
    ring
  have fits : SheetFits p s 16 scale :=
    ⟨htpr, hscale, by decide, hscalePos, hlen, by omega, by omega, by rwa [hwidth16, hheight]⟩
  refine ⟨exec_of_written, fits.errCode_eq, (fits.fbHeight_toNat hmax).trans hheight,
    fun py px hpy hpx => ?_⟩
  have htile := sheetOf_get_tile p s (tpr := 16) (i := 16) (by decide) (by omega) hpy hpx
  rwa [hwidth16, Nat.div_self (by decide), Nat.mod_self, Nat.one_mul, Nat.zero_mul, Nat.zero_add, ← fits.fb_eq] at htile

/-- Settles O46: 17 bytes hold one whole tile and one byte of the next. -/
theorem trailingByteWarns : Obligations.TrailingByteWarns := by
  intro p s tpr scale hlen htpr hscale htprPos hscalePos hcap hwidth hpixels
  rw [Nat.mul_assoc tpr 8 scale] at hwidth hpixels
  have hinLen : s.inLen.toNat = 17 := congrArg BitVec.toNat hlen
  have hheight : ceilDiv (s.inLen.toNat / 16) tpr * (8 * scale) = 8 * scale := by
    rw [hinLen, ceilDiv, show 17 / 16 + tpr - 1 = tpr by omega, Nat.div_self htprPos, Nat.one_mul]
  have hside : 8 * scale ≤ tpr * (8 * scale) := Nat.le_mul_of_pos_left _ htprPos
  have fits : SheetFits p s tpr scale :=
    ⟨htpr, hscale, htprPos, hscalePos, by omega, hwidth, by omega, by rwa [hheight]⟩
  refine ⟨exec_of_written, ?_, ?_, fits.done_eq, fits.errCode_eq⟩
  · rw [fits.tileCount_eq, hinLen]
    rfl
  · rw [fits.warn_eq, hinLen]
    rfl

/-- Settles O47: the outputs of the other three commands are in none of COMPOSE's columns (R93). -/
theorem composeLeavesTheSingleTileOutputs : Obligations.ComposeLeavesTheSingleTileOutputs := by
  intro s t h
  obtain ⟨hdecode, hresolve, hraster, -⟩ := commandsWriteOnlyTheirOutputs s t .compose h
  obtain ⟨hcig, hcigValid⟩ := hdecode (by decide)
  obtain ⟨hrpal, hrpalValid⟩ := hresolve (by decide)
  obtain ⟨hrb, hrbDim, hrbValid⟩ := hraster (by decide)
  exact ⟨hcig, hrpal, hrb, hrbDim, hcigValid, hrpalValid, hrbValid⟩

end Sys2Proof.Machine

/-! # How BLOCK's step ends (60_exceptions.md R210 to R217, R230)

A next state of BLOCK's step is a completion, of a fault or of a success; that a step ends, that a fault is precise and that FAULTED
stays are read off the two. The code a fault reports is the one its command's checks give, in their order. -/

namespace Sys2Proof.Machine

/-- The two completions of R210: the fault completion of `s`, or a success completion that leaves FAULTED as it was in `s`. -/
def Completion (s t : State) : Prop :=
  (∃ code req avail, code ≠ .none ∧ t = s.raiseFault code req avail) ∨
    ∃ (u : State) (warn : Bool), u.status.faulted = s.status.faulted ∧ t = u.completeSuccess warn

theorem exec_completion {i : Instr} {s t : State} (h : exec i s = .next t) : Completion s t := by
  rcases exec_cases h with ⟨code, req, avail, hcode, -, ht⟩ | ⟨-, -, -, ht⟩ | ⟨-, ht⟩ | ⟨-, scale, -, -, -, -, -, -, ht⟩ |
    ⟨-, tpr, scale, -, ht⟩
  · exact .inl ⟨code, req, avail, hcode, ht⟩
  · exact .inr ⟨s.setCig _, _, rfl, ht⟩
  · exact .inr ⟨s.setRpal _, _, rfl, ht⟩
  · exact .inr ⟨s.setRb _ _, _, rfl, ht⟩
  · exact .inr ⟨s.setFb _ _ _ _, _, rfl, ht⟩

theorem blockStep_completion {s t : State} (h : blockStep s = .next t) : Completion s t := by
  rcases blockStep_cases s with ⟨i, -, hi⟩ | ⟨-, hill⟩
  · exact exec_completion (hi ▸ h)
  · cases hill.symm.trans h
    exact .inl ⟨.illegalCommand, 0, 0, by decide, rfl⟩

/-- BLOCK's step stops only with the fault of the claim (R68, I2). -/
theorem blockStep_outcome (s : State) :
    (∃ t, blockStep s = .next t) ∨
      (blockStep s = .fault .unwrittenInputRead ∧ ∃ i, decode s.pending = .command i ∧ ¬ InputsWritten i s) := by
  rcases blockStep_cases s with ⟨i, hi, hblock⟩ | ⟨-, hill⟩
  · rw [hblock]
    rcases exec_outcome i s with ⟨-, hexec⟩ | ⟨hunwritten, -, hexec⟩
    · exact .inl ⟨_, hexec⟩
    · exact .inr ⟨hexec, i, hi, hunwritten⟩
  · exact .inl ⟨_, hill⟩

/-- Settles O49: a next state is one of the two completions, and each sets the fields as R214 and R215 list them. -/
theorem everyCommandEnds : Obligations.EveryCommandEnds := by
  intro s hblock
  rw [step_of_blockMoves hblock]
  refine (blockStep_outcome s).imp_left ?_
  rintro ⟨t, ht⟩
  rcases blockStep_completion ht with ⟨code, req, avail, hcode, rfl⟩ | ⟨u, warn, hfaulted, rfl⟩
  · exact ⟨_, ht, rfl, .inr ⟨hcode, rfl, rfl, rfl⟩⟩
  · exact ⟨_, ht, rfl, .inl ⟨rfl, rfl, rfl, rfl, hfaulted⟩⟩

/-- The fault completion is determined by the code and the two sizes it leaves (R214). -/
theorem raiseFault_eq_faultCompletion (s : State) (code : ErrCode) (req avail : Word) :
    s.raiseFault code req avail = faultCompletion s code req.toNat avail.toNat := by
  rw [← raiseFault_eq, BitVec.ofNat_toNat, BitVec.ofNat_toNat, BitVec.setWidth_eq, BitVec.setWidth_eq]

/-- Settles O50: a success leaves ERRCODE = 0, so that the step ended in the fault completion. -/
theorem faultsArePrecise : Obligations.FaultsArePrecise := by
  intro s t hblock ht he
  rw [step_of_blockMoves hblock] at ht
  rcases blockStep_completion ht with ⟨code, req, avail, -, rfl⟩ | ⟨u, warn, -, rfl⟩
  · exact raiseFault_eq_faultCompletion s code req avail
  · exact absurd rfl he

theorem Completion.keeps_faulted {s t : State} (h : Completion s t) (hs : s.status.faulted = true) : t.status.faulted = true := by
  rcases h with ⟨code, req, avail, -, rfl⟩ | ⟨u, warn, hfaulted, rfl⟩
  · rfl
  · exact hfaulted.trans hs

/-- DONE tells a success from a fault (R214, R215). -/
theorem Completion.errCode_of_done {s t : State} (h : Completion s t) (hdone : t.status.done = true) : t.status.errCode = .none := by
  rcases h with ⟨code, req, avail, -, rfl⟩ | ⟨u, warn, -, rfl⟩
  · cases hdone
  · rfl

/-- Of HOST's operations reset alone touches FAULTED (R217, R250). -/
theorem hostStep_keeps_faulted {p : Params} {s t : State} (h : hostStep p s = .next t) :
    t.status.faulted = s.status.faulted ∨ ∃ rest, s.hostOps = .reset :: rest := by
  rcases hostStep_cases h with ⟨-, rfl⟩ | ⟨op, rest, hops, -, ⟨off, w, -, -, rfl⟩ | ⟨off, w, il, ti, tpr, sc, ps, -, rfl⟩ |
    ⟨a, v, -, -, rfl⟩ | ⟨v, n, rfl⟩ | ⟨-, -, rfl⟩ | ⟨-, rfl⟩ | ⟨rfl, -⟩⟩
  · exact .inl rfl
  · exact .inl rfl
  · exact .inl rfl
  · exact .inl rfl
  · exact .inl rfl
  · exact .inl rfl
  · exact .inl rfl
  · exact .inr ⟨rest, hops⟩

/-- Settles O51: both completions keep FAULTED, and so does every move of HOST but reset. -/
theorem faultedIsSticky : Obligations.FaultedIsSticky := by
  refine ⟨fun s t h hfaulted => ?_, fun s t i h hfaulted hdone => ?_⟩
  · rcases blockMoves_or_hostMoves s with hblock | ⟨u, hhost⟩
    · exact .inl ((blockStep_completion (step_of_blockMoves hblock ▸ h)).keeps_faulted hfaulted)
    · have hu := hostStep_keeps_faulted (step_of_hostMoves hhost ▸ h)
      rw [hostMoves_eq hhost] at hu
      exact hu.imp (fun hkept => hkept.trans hfaulted) fun hreset => ⟨not_blockMoves_of_hostMoves hhost, hreset⟩
  · have hend := exec_completion h
    exact ⟨hend.errCode_of_done hdone, hend.keeps_faulted hfaulted⟩

/-- A command whose pseudocode ends in ERRCODE `code` completes so if it fails a check or its input is written, and is otherwise a fault
of the claim (R68, R213, I2). -/
theorem exec_of_errCode {i : Instr} {s : State} {code : ErrCode} (h : (commandState i s).status.errCode = code) :
    (InputsWritten i s ∨ code ≠ .none → ∃ t, exec i s = .next t ∧ t.status.errCode = code) ∧
      (¬ InputsWritten i s → code = .none → exec i s = .fault .unwrittenInputRead) := by
  refine ⟨?_, fun hunwritten hcode => exec_of_unwritten hunwritten (h.trans hcode)⟩
  rintro (hwritten | hcode)
  · exact ⟨_, exec_of_written hwritten, h⟩
  · exact ⟨_, exec_of_check (h ▸ hcode), h⟩

section
variable (p : Params) (s : State)

/-- DECODE's checks in order (R122, R213). -/
theorem decodeCommand_errCode :
    (decodeCommand p s).status.errCode =
      if s.inLen.toNat > p.inCap then .capacity
      else if s.inLen.toNat < (s.tileIndex.toNat + 1) * 16 then .range else .none := by
  simp only [decodeCommand, apply_ite State.status, apply_ite Status.errCode]
  rfl

/-- RASTER's checks in order (R162, R213). -/
theorem rasterCommand_errCode :
    (rasterCommand p s).status.errCode =
      if s.status.cigValid = false ∨ s.status.rpalValid = false then .notReady
      else if s.scale.toInt < 1 then .badScale
      else if 8 * s.scale.toInt.toNat > p.maxDim then .capacity
      else if 8 * s.scale.toInt.toNat * (8 * s.scale.toInt.toNat) > p.rbCap then .capacity else .none := by
  simp only [rasterCommand, apply_ite State.status, apply_ite Status.errCode]
  rfl

/-- COMPOSE's checks in order (R182, R213). -/
theorem composeCommand_errCode :
    (composeCommand p s).status.errCode =
      let w := s.tilesPerRow.toInt.toNat * (8 * s.scale.toInt.toNat)
      let h := ceilDiv (s.inLen.toNat / 16) s.tilesPerRow.toInt.toNat * (8 * s.scale.toInt.toNat)
      if s.inLen.toNat > p.inCap then .capacity
      else if s.tilesPerRow.toInt < 1 then .badTpr
      else if s.scale.toInt < 1 then .badScale
      else if w > p.maxDim then .capacity
      else if h > p.maxDim then .capacity
      else if w * h > p.fbCap then .capacity else .none := by
  simp only [composeCommand, apply_ite State.status, apply_ite Status.errCode]
  rfl

end

/-- Settles O48: the code is the one that the command's if-chain of checks gives. -/
theorem faultCheckOrder : Obligations.FaultCheckOrder := by
  intro s i
  refine exec_of_errCode ?_
  cases i with
  | decode => exact decodeCommand_errCode Config.params s
  | resolve => rfl
  | raster =>
    have hready : (s.status.cigValid = false ∨ s.status.rpalValid = false) ↔
        ¬ (s.status.cigValid = true ∧ s.status.rpalValid = true) := by
      rw [not_and_or, Bool.not_eq_true, Bool.not_eq_true]
    simp only [commandState, rasterCommand_errCode, hready, Order.lt_one_iff_nonpos, sq]
  | compose =>
    simp only [commandState, composeCommand_errCode, Order.lt_one_iff_nonpos, ite_or]
    rfl

end Sys2Proof.Machine

/-! # A HOST that breaks its duties, and one that waits (60_exceptions.md R230 to R234, 70_reset_and_hazards.md R260) -/

namespace Sys2Proof.Machine

/-- The offsets of the output registers (R22, R24). -/
theorem output_of_mem {off : Nat} (h : off ∈ [0x28, 0x2C, 0x30, 0x34, 0x38, 0x3C, 0x40, 0x44, 0x48, 0x4C]) :
    ∃ r : Reg, r.isOutput = true ∧ r.offset = off := by
  have hall : ∀ off ∈ [0x28, 0x2C, 0x30, 0x34, 0x38, 0x3C, 0x40, 0x44, 0x48, 0x4C],
      ∃ r ∈ Reg.all, r.isOutput = true ∧ r.offset = off := by
    decide
  obtain ⟨r, -, hr⟩ := hall off h
  exact ⟨r, hr⟩

section
variable {r : Reg}

/-- A control register is no output (R22, R230). -/
theorem isOutput_of_isControl (hr : r.isControl = true) : r.isOutput = false := by
  cases r with
  | inLen | tileIndex | tilesPerRow | scale | psel _ => rfl
  | _ => cases hr

theorem wr_control_refused (hr : r.isControl = true) (v : Word) :
    (HostOp.wr r.offset v).refusal true = some .inputWriteWhileBusy := by
  simp only [HostOp.refusal, busyWriteRefusal, reg_offset_aligned, reg_atOffset_offset]
  cases r with
  | inLen | tileIndex | tilesPerRow | scale | psel _ => rfl
  | _ => cases hr

theorem rd_output_refused (hr : r.isOutput = true) : (HostOp.rd r.offset).refusal true = some .outputReadWhileBusy := by
  simp [HostOp.refusal, busyReadRefusal, reg_offset_aligned, reg_atOffset_offset, hr]

theorem rd_control_refused (hr : r.isControl = true) : (HostOp.rd r.offset).refusal true = some .inputReadWhileBusy := by
  simp [HostOp.refusal, busyReadRefusal, reg_offset_aligned, reg_atOffset_offset, hr, isOutput_of_isControl hr]

end

/-- An access to REG at an offset that is no multiple of 4 is refused at any time (R61, R70). -/
theorem misaligned_refused {off : Nat} (h : off % 4 ≠ 0) (v : Word) (busy : Bool) :
    (HostOp.wr off v).refusal busy = some .misalignedAccess ∧ (HostOp.rd off).refusal busy = some .misalignedAccess :=
  ⟨if_pos h, if_pos h⟩

/-- Settles O21: each of these moves has its refusal, which the step gives. -/
theorem brokenHostDutiesAreRefused : Obligations.BrokenHostDutiesAreRefused := by
  intro s u op n v b rest hhost hops
  have refuse {r : Refusal} (hr : op.refusal s.status.busy = some r) : step s = .refused r := step_of_refusal hhost hops hr
  refine ⟨?_, ?_, ?_, ?_, ?_⟩
  · rintro hbusy rfl
    exact refuse (by rw [hbusy]; rfl)
  · intro hbusy hop
    rw [hbusy] at refuse
    rcases hop with rfl | ⟨rfl, hn⟩
    · exact refuse rfl
    · obtain ⟨r, hr, rfl⟩ := control_of_mem hn
      exact refuse (wr_control_refused hr v)
  · intro hbusy hop
    rw [hbusy] at refuse
    rcases hop with rfl | rfl | rfl | ⟨rfl, hn⟩
    · exact refuse rfl
    · exact refuse rfl
    · exact refuse rfl
    · obtain ⟨r, hr, rfl⟩ := output_of_mem hn
      exact refuse (rd_output_refused hr)
  · intro hbusy hop
    rw [hbusy] at refuse
    rcases hop with rfl | rfl | ⟨rfl, hn⟩
    · exact refuse rfl
    · exact refuse rfl
    · obtain ⟨r, hr, rfl⟩ := control_of_mem hn
      exact refuse (rd_control_refused hr)
  · rintro hn (rfl | rfl)
    · exact refuse (misaligned_refused hn v _).1
    · exact refuse (misaligned_refused hn v _).2

theorem answer_notRefused (r : ReadResult) (s : State) : NotRefused (s.answer r) := by
  intro q
  cases r <;> exact nofun

/-- A move of HOST is refused, if at all, before it is performed: performing one completes or is a fault of the claim. -/
theorem perform_notRefused (p : Params) (op : HostOp) (s : State) : NotRefused (op.perform p s) := by
  cases op with
  | rd _ | rb _ | rdct _ | rdcig _ | rdrb _ | rdfb _ => exact answer_notRefused _ s
  | wait =>
    simp only [HostOp.perform]
    split_ifs <;> exact nofun
  | _ => exact nofun

theorem blockStep_notRefused (s : State) : NotRefused (blockStep s) := by
  rcases blockStep_outcome s with ⟨t, ht⟩ | ⟨hfault, -⟩
  · rw [ht]; exact nofun
  · rw [hfault]; exact nofun

theorem hostStep_nil {p : Params} {s : State} (h : s.hostOps = []) : hostStep p s = .next s := by
  rw [hostStep, h]

section
variable {op : HostOp} {rest : List HostOp} (h : waitsForCommands (op :: rest) = true)
include h

theorem waitsForCommands_tail : waitsForCommands rest = true := (Bool.and_eq_true_iff.mp h).2

/-- While BUSY = 0 such a HOST makes no move that is refused: its register accesses are aligned. -/
theorem refusal_of_waitsForCommands : op.refusal false = none := by
  have hop := (Bool.and_eq_true_iff.mp h).1
  cases op with
  | wr off v =>
    have haligned : off % 4 = 0 := of_decide_eq_true (Bool.and_eq_true_iff.mp hop).1
    exact if_neg (not_not_intro haligned)
  | rd off => exact if_neg (not_not_intro (of_decide_eq_true hop))
  | _ => rfl

/-- After a CMD write it waits at once. -/
theorem wait_after_cmdWrite {w : Word} (hop : op = .wr 0 w) : rest.head? = some .wait := by
  subst hop
  have hwait := (Bool.and_eq_true_iff.mp h).1
  simpa using hwait

end

/-- HOST's step of a program that waits for its commands, while BUSY = 0. -/
theorem hostStep_disciplined {p : Params} {s : State} (hidle : s.status.busy = false) (hs : waitsForCommands s.hostOps = true) :
    NotRefused (hostStep p s) ∧ ∀ t, hostStep p s = .next t → Disciplined t := by
  constructor
  · cases hops : s.hostOps with
    | nil => rw [hostStep_nil hops]; exact nofun
    | cons op rest =>
      have hallowed : op.refusal s.status.busy = none := hidle ▸ refusal_of_waitsForCommands (hops ▸ hs)
      rw [hostStep_cons hops hallowed]
      exact perform_notRefused p op _
  · intro t ht
    have idle {u : State} (hu : u.status.busy = false) (hprogram : waitsForCommands u.hostOps = true) : Disciplined u :=
      ⟨hprogram, fun hbusy => absurd (hu.symm.trans hbusy) (by decide)⟩
    rcases hostStep_cases ht with ⟨-, rfl⟩ | ⟨op, rest, hops, -, hmove⟩
    · exact idle hidle hs
    rw [hops] at hs
    have hrest := waitsForCommands_tail hs
    rcases hmove with ⟨off, w, hop, hcmd, rfl⟩ | ⟨off, w, il, ti, tpr, sc, ps, -, rfl⟩ | ⟨a, v, -, -, rfl⟩ | ⟨v, n, rfl⟩ |
      ⟨-, hbusy, -⟩ | ⟨-, rfl⟩ | ⟨-, rfl⟩
    · rw [atOffset_cmd hcmd] at hop
      exact ⟨hrest, fun _ => wait_after_cmdWrite hs hop⟩
    · exact idle hidle hrest
    · exact idle hidle hrest
    · exact idle hidle hrest
    · simp [hidle] at hbusy
    · exact idle hidle hrest
    · exact idle rfl hrest

/-- While BUSY = 1 such a HOST polls, and nothing changes but `delay`. -/
theorem step_of_disciplined_busy {s u : State} (hs : Disciplined s) (hbusy : s.status.busy = true) (hhost : HostMoves s u) :
    step s = .next u := by
  obtain ⟨rest, hops⟩ := List.head?_eq_some_iff.mp (hs.2 hbusy)
  rw [step_of_wait hhost hops, if_pos hbusy, ← hops, hostMoves_eq hhost]

/-- BLOCK's step leaves BUSY = 0 and HOST's program as it was (R72, R230). -/
theorem blockStep_disciplined {s t : State} (hs : Disciplined s) (h : blockStep s = .next t) : Disciplined t := by
  have hprogram : t.hostOps = s.hostOps := by
    rcases blockStep_cases s with ⟨i, -, hi⟩ | ⟨-, hill⟩
    · have hexec : exec i s = .next t := hi ▸ h
      rw [exec_changes_outputs hexec]
    · cases hill.symm.trans h
      rfl
  refine ⟨hprogram ▸ hs.1, fun hbusy => ?_⟩
  rcases blockStep_completion h with ⟨code, req, avail, -, rfl⟩ | ⟨u, warn, -, rfl⟩
  · cases hbusy
  · cases hbusy

/-- The step lemma of the waiting HOST: BLOCK moves, or HOST polls, or HOST goes on with its program. -/
theorem step_disciplined {s : State} (hs : Disciplined s) :
    NotRefused (step s) ∧ ∀ t, step s = .next t → Disciplined t := by
  rcases blockMoves_or_hostMoves s with hblock | ⟨u, hhost⟩
  · rw [step_of_blockMoves hblock]
    exact ⟨blockStep_notRefused s, fun t => blockStep_disciplined hs⟩
  cases hbusy : s.status.busy with
  | true =>
    rw [step_of_disciplined_busy hs hbusy hhost]
    refine ⟨nofun, ?_⟩
    rintro t ⟨⟩
    rw [hostMoves_eq hhost]
    exact hs
  | false =>
    rw [step_of_hostMoves (hostMoves_of_idle hbusy)]
    exact hostStep_disciplined hbusy hs.1

/-- A property that every step keeps, and under which no step is refused, holds along every run. -/
theorem runFor_keeps {P : State → Prop} (hstep : ∀ s, P s → NotRefused (step s) ∧ ∀ t, step s = .next t → P t) (k : Nat) :
    ∀ s, P s → NotRefused (runFor k s) ∧ ∀ t, runFor k s = .next t → P t := by
  induction k with
  | zero =>
    intro s hs
    rw [runFor_zero]
    refine ⟨nofun, ?_⟩
    rintro t ⟨⟩
    exact hs
  | succ k ih =>
    intro s hs
    obtain ⟨hnot, hnext⟩ := hstep s hs
    cases h : step s with
    | next t => rw [runFor_next h]; exact ih t (hnext t h)
    | fault r => rw [runFor_fault h]; exact ⟨nofun, fun t ht => nomatch ht⟩
    | refused r => exact absurd h (hnot r)

/-- Settles O60: `step_disciplined` is the step lemma, carried along the run. -/
theorem waitingHostIsNeverRefused : Obligations.WaitingHostIsNeverRefused :=
  runFor_keeps fun _ => step_disciplined

end Sys2Proof.Machine

/-! # Idle, and STATUS while a command is pending (20_memory.md R73, 60_exceptions.md R227, R231) -/

namespace Sys2Proof.Machine

/-- Settles O24: an idle HOST's step with nothing left to do (R227). -/
theorem idleKeepsEverything : Obligations.IdleKeepsEverything := by
  intro s hidle hops
  rw [step_of_hostMoves (hostMoves_of_idle hidle), hostStep_nil hops]

/-- HOST may read STATUS at any time (R230), and the read returns its word. -/
theorem step_rd_status {s u : State} {rest : List HostOp} (h : HostMoves s u) (hops : s.hostOps = .rd 0x04 :: rest) :
    step s = .next { u with hostOps := rest, hostReads := u.hostReads ++ [u.status.word] } :=
  step_rd_value h hops (by cases s.status.busy <;> rfl) rfl

/-- Settles O9: the CMD write sets BUSY and clears DONE, and a read of STATUS shows them. -/
theorem statusReadWhilePending : Obligations.StatusReadWhilePending := by
  intro s w rest hidle hops
  obtain ⟨t, hwrite, ht⟩ := cmdWriteStartsACommand s w _ hidle hops
  refine ⟨t, hwrite, ?_⟩
  have hbusy : t.status.busy = true := by rw [ht]
  have hdone : t.status.done = false := by rw [ht]
  have hreads : t.hostReads = s.hostReads := by rw [ht]
  have hrest : t.hostOps = .rd 0x04 :: rest := by rw [ht]
  cases hdelay : t.delay with
  | zero => exact .inl rfl
  | succ k =>
    refine .inr ⟨_, t.status.word, step_rd_status (.inr ⟨hbusy, k, hdelay, rfl⟩) hrest, ?_, ?_, ?_, rfl⟩
    · rw [← hreads]
    · rw [t.status.word_getLsbD 0 (by decide), hbusy]
      rfl
    · rw [t.status.word_getLsbD 1 (by decide), hdone]
      rfl

end Sys2Proof.Machine

/-! # Reset, and the end of a pending command (70_reset_and_hazards.md R250, R251, R262) -/

namespace Sys2Proof.Machine

/-- HOST may assert reset whenever it moves, BUSY = 1 included (R250, R251). -/
theorem step_of_reset {s u : State} {rest : List HostOp} (h : HostMoves s u) (hops : s.hostOps = .reset :: rest) :
    step s = .next ({ u with hostOps := rest } : State).assertReset :=
  step_of_hostOp h hops rfl

/-- Settles O25: reset takes every register from the reset state, whatever state HOST asserts it in. -/
theorem resetFromAnyState : Obligations.ResetFromAnyState := by
  intro s u rest hhost hops
  have hreads : u.hostReads = s.hostReads := by rw [hostMoves_eq hhost]
  obtain ⟨hstatus, hinLen, htileIndex, htpr, hscale, hpsel, hrpal, hrbDim, hfbWidth, hfbHeight, htileCount, herrReq, herrAvail, -⟩ :=
    startStateHasTheResetValues
  exact ⟨_, step_of_reset hhost hops, hstatus, rfl, hinLen, htileIndex, htpr, hscale, hpsel, hrpal, hrbDim, hfbWidth, hfbHeight,
    htileCount, herrReq, herrAvail, fun _ => rfl, rfl, hreads⟩

/-- Both completions clear BUSY (R214, R215). -/
theorem Completion.idle {s t : State} (h : Completion s t) : t.status.busy = false := by
  rcases h with ⟨code, req, avail, -, rfl⟩ | ⟨u, warn, -, rfl⟩
  · rfl
  · rfl

theorem inputsWritten_delay (i : Instr) (s : State) (d : Nat) : InputsWritten i { s with delay := d } ↔ InputsWritten i s := by
  cases i <;> rfl

/-- Settles O58: HOST polls until `delay` has run down, and BLOCK's step then completes or is the fault of the claim. -/
theorem pendingCommandEventuallyEnds : Obligations.PendingCommandEventuallyEnds := by
  intro s rest hbusy hops
  have hrun : runFor (s.delay + 1) s = blockStep { s with delay := 0 } := runFor_wait hbusy rfl hops
  refine ⟨_, hrun, ?_⟩
  rw [hrun]
  rcases blockStep_outcome { s with delay := 0 } with ⟨t, ht⟩ | ⟨hfault, i, hi, hunwritten⟩
  · exact .inl ⟨t, ht, (blockStep_completion ht).idle⟩
  · exact .inr ⟨hfault, i, hi, fun hwritten => hunwritten ((inputsWritten_delay i s 0).mpr hwritten)⟩

end Sys2Proof.Machine
